-- ==== Sys2Proof/Word.lean ====
section
/-! DEFINITION. The machine's plain words: bytes as frames and images carry them, station numbers, and
sets of stations as the 16-bit map of spec/12_formats.md (bit n stands for station n). -/

namespace Sys2Proof

/-- One byte of a frame or of an image. -/
abbrev Byte := BitVec 8

/-- A station number, 0..15 (00_scope.md, "Terms"). -/
abbrev Station := Fin 16

/-- A set of stations: bit n stands for station n (12_formats.md). -/
abbrev StationSet := BitVec 16

/-- Station `n` is a member of `m`. -/
def StationSet.has (m : StationSet) (n : Station) : Bool := m.getLsbD n.val

/-- The set that holds `n` alone. -/
def StationSet.only (n : Station) : StationSet := 1#16 <<< n.val

/-- `m` with `n` added. -/
def StationSet.add (m : StationSet) (n : Station) : StationSet := m ||| StationSet.only n

/-- The sixteen station numbers in rising order. -/
def allStations : List Station := List.finRange 16

end Sys2Proof
end

