-- ==== Sys2Proof/Config.lean ====
section
/-! DEFINITION. The parameters of the part (00_scope.md, "Parameters"), and the one physical value the
spec leaves open. -/

namespace Sys2Proof.Config

/-- XB_STALE_AGE. -/
@[simp] def staleAge : Nat := 9
/-- XB_OWED_LIMIT. -/
@[simp] def owedLimit : Nat := 9
/-- XB_SURGE_WINDOW: the life of an accepted claim. -/
@[simp] def surgeLife : Nat := 40
/-- XB_SURGE_SLOTS. -/
@[simp] def surgeSlots : Nat := 4
/-- XB_SURGE_GRANT. -/
@[simp] def surgeGrant : Nat := 25
/-- XB_GATHER_WINDOW. -/
@[simp] def gatherWindow : Nat := 25
/-- XB_ARM_EXPIRY. -/
@[simp] def armExpiry : Nat := 30000
/-- XB_LEAD_MAX. -/
@[simp] def leadMax : Nat := 250
/-- XB_RESUME_GAP. -/
@[simp] def resumeGap : Nat := 50
/-- XB_HOLD_STEP. -/
@[simp] def holdStep : Nat := 4
/-- XB_LEVEL_RATE. -/
@[simp] def levelRate : Nat := 252
/-- XB_DRIFT_LIMIT, in 1/256 period: 16 periods (R106). -/
@[simp] def driftLimit : Nat := 4096
/-- XB_KEYS_MAX. -/
@[simp] def keysMax : Nat := 24
/-- XB_SEG_MAX. -/
@[simp] def segMax : Nat := 30000
/-- XB_FADE_MAX and XB_DWELL_MAX. -/
@[simp] def fadeMax : Nat := 500
/-- XB_COMMIT_LIMIT. -/
@[simp] def commitLimit : Nat := 250
/-- XB_BRAKE_SETTLE. -/
@[simp] def brakeSettle : Nat := 25
/-- XB_FE_COUNT. -/
@[simp] def feCount : Nat := 3
/-- XB_DRIVE_SILENT. -/
@[simp] def driveSilent : Nat := 3
/-- XB_POS_BOUND in FU: the bound of S, F and O, 4,000,000 PU times 256 (00_scope.md, "Units"). -/
@[simp] def fineBound : Int := 1024000000
/-- XB_POS_BOUND in PU. -/
@[simp] def posBound : Int := 4000000
/-- XB_V_CEILING. -/
@[simp] def vCeiling : Int := 262143
/-- XB_K_TIP. -/
@[simp] def kTip : Int := 14667720
/-- The largest timeline a STATE frame carries (12_formats.md; R93). -/
@[simp] def timelineMax : Nat := 176640000

/-- The electrical level an open circuit shows on a line, high or low. R159 names it and the spec gives no
level for it: a free constant (log entry 16). -/
opaque openCircuitLevel : Bool

end Sys2Proof.Config
end

