-- ==== Sys2Proof/Syntax.lean ====
section
/-! DEFINITION. The vocabulary of the part (enumerations, frames, presets, profiles) and `Instr`: one
constructor for every row of spec/opcode_table.json. The table gives no operands. Each constructor carries
what its rule needs from outside the node (log entry 3). -/

namespace Sys2Proof

/-- Axis roles (12_formats.md). -/
inductive Role where
  | swing | lift | telescope | pan | tilt | roll
deriving DecidableEq, Repr

/-- Node states, NS_0..NS_9 (section 8.1). -/
inductive NodeState where
  | starting | configFault | braked | brakeRelease | active | holdPark | brakeEngage | stopping | stopped | faulted
deriving DecidableEq, Repr

/-- Move phases, MP_1..MP_9 (section 5.1). -/
inductive Phase where
  | gather | armed | posted | running | holding | suspended | resuming | finished | releasing
deriving DecidableEq, Repr

/-- Result codes, RC_0..RC_16 (00_scope.md). -/
inductive ResultCode where
  | ok | busy | refusedState | badArgument | slotEmpty | slotInvalid | slotProtected | slotBusy | notAtStart
  | bufferFull | bufferShort | storeLocked | storeFailed | spliceDenied | peerLost | halted | notStill
deriving DecidableEq, Repr

/-- Fault causes, FC_0..FC_7 (00_scope.md). -/
inductive FaultCause where
  | none | config | driveFault | driveSilent | following | brakeTimeout | linkStarved | stationClash
deriving DecidableEq, Repr

/-- Abandon reasons, AB_1..AB_9 (00_scope.md). -/
inductive AbandonReason where
  | superseded | earlyCue | joinLate | armExpired | moveSplit | halted | cancelled | spliceSet | drift
deriving DecidableEq, Repr

/-- The cause field of a HALT frame. -/
inductive HaltCause where
  | estopLine | console
deriving DecidableEq, Repr

/-- Easing of a segment (section 7.1). -/
inductive Easing where
  | linear | smooth
deriving DecidableEq, Repr

/-- Stick curves (section 1.2). -/
inductive Curve where
  | linear | square
deriving DecidableEq, Repr

/-- The mode of a PARK. -/
inductive ParkMode where
  | hold | brake
deriving DecidableEq, Repr

/-- Slot statuses (section 7.1); `guarded` is PROTECTED, a word Lean keeps for itself. -/
inductive SlotStatus where
  | empty | valid | guarded | writing | erasing | invalid
deriving DecidableEq, Repr

/-- Profile statuses (R177). -/
inductive ProfileStatus where
  | reading | good | unreadable | blank | checkFailed | outOfRange | accelOrder | limitOrder | ownSource | estopMasked
deriving DecidableEq, Repr

/-- The five interlock lines, one value of each (section 9.3). -/
structure Lines (α : Type) where
  estop : α
  limitPos : α
  limitNeg : α
  driveFault : α
  brakeFb : α
deriving DecidableEq, Repr

/-! ## Presets (R117) -/

/-- Duration and easing of the segment that ends at a keyframe. -/
structure Motion where
  dur : Nat
  easing : Easing
deriving DecidableEq, Repr

/-- A keyframe: its position in FU, and its motion, absent on keyframe 0. -/
structure Keyframe where
  pos : Int
  motion : Option Motion
deriving DecidableEq, Repr

/-- A preset record without its check, which is computed over these fields (R117, R182). -/
structure Preset where
  keys : List Keyframe
  fIn : Nat
  fOut : Nat
  dwell : Nat
  sTrim : Nat
  autoRelease : Bool
  protect : Bool
deriving DecidableEq, Repr

/-! ## The profile (R176) -/

/-- The values the blocks take from an accepted profile. -/
structure Profile where
  role : Role
  pMin : Int
  pMax : Int
  lMax : Int
  r0 : Int
  tTip : Int
  vAxisMax : Int
  vs : Int
  vApproach : Int
  aLow : Int
  aHigh : Int
  aStop : Int
  deadband : Int
  curve : Curve
  stickSource : Option Station
  followSource : Option Station
  rf : Int
  extSource : Option Station
  startTol : Int
  feLimit : Int
  brakeTimeout : Nat
  /-- per line: the high level means active -/
  polarity : Lines Bool
  /-- per line: masked -/
  mask : Lines Bool
deriving DecidableEq, Repr

/-! ## Frames (section 10.1) -/

/-- One channel of a STICK frame: a role and a deflection, signed 16 bits (12_formats.md). -/
structure Channel where
  role : Role
  deflection : BitVec 16
deriving DecidableEq, Repr

/-- The move report of a STATE frame. -/
inductive MoveReport where
  | move (id : Byte) (phase : Phase)
  | abandoned (reason : AbandonReason)
deriving DecidableEq, Repr

/-- The fields of a STATE frame after its source. -/
structure StateReport where
  role : Role
  nodeState : NodeState
  cause : FaultCause
  setpoint : Int
  velocity : Int
  ownPos : Int
  report : Option MoveReport
  parts : Option StationSet
  timeline : Option Nat
  surgeGranted : Bool
  stickLost : Bool
  owed : Nat
  lastResult : Option (Byte × ResultCode)
deriving DecidableEq, Repr

/-- The SERVICE operations with their arguments (section 10.1; widths from 12_formats.md). -/
inductive Operation where
  | query (page : Byte)
  | capture (dur : BitVec 16) (easing : Easing)
  | undo
  | editClear
  | commit (slot : Byte) (autoRelease protect : Bool) (fIn fOut dwell sTrim : BitVec 16)
  | delete (slot : Byte)
  | unprotect (slot : Byte)
  | gotoStart (slot : Byte)
  | park (mode : ParkMode)
  | unpark
  | clear
  | restart
deriving DecidableEq, Repr

/-- A frame's kind and fields, its source apart (section 10.1). -/
inductive Frame where
  | halt (cause : HaltCause)
  | surge
  | arm (tag moveId slot : Byte) (targets : StationSet) (splice : Bool)
  | join (moveId : Byte)
  | go (tag moveId lead : Byte)
  | hold (tag : Option Byte) (moveId : Byte)
  | resume (tag : Option Byte) (moveId : Byte)
  | release (tag : Option Byte) (moveId : Byte)
  | cancel (tag : Option Byte) (moveId : Byte)
  | stick (enable : Bool) (channels : List Channel)
  | state (report : StateReport)
  | service (tag : Byte) (target : Station) (op : Operation)
  | descriptor (page : Byte) (content : List Byte)
deriving DecidableEq, Repr

/-! ## Operands of the commands -/

/-- How a frame reaches the node: its source station, and whether it is the node's own transmission that
came back at its end (R161; log entry 7). -/
structure Rx where
  src : Station
  own : Bool
deriving DecidableEq, Repr

/-- The head of a SERVICE frame: how it came, its tag and its target station. -/
structure SvcHead where
  rx : Rx
  tag : Byte
  target : Station
deriving DecidableEq, Repr

/-- The blocks that react to a period expiry for their own state (00_scope.md, "Time and events"). The
link interface has no reaction of its own: its STATE placement is part of the setpoint operation (R39). -/
inductive Block where
  | peers | moves | surge | axis | lines | store | setpoint
deriving DecidableEq, Repr

/-- What one period expiry takes from outside: the electrical levels of the five lines at the sampling
(true is high), the order in which the blocks react (log entry 2), and whether the store memory had done
step 4 of R120 when a cancel of this expiry reaches it (log entry 18). -/
structure ExpiryInput where
  levels : Lines Bool
  order : List Block
  stepFourDone : Bool
deriving DecidableEq, Repr

/-- The two edges of the reset line (R180). -/
inductive ResetEdge where
  /-- the line becomes held, cutting short what the node did -/
  | held (stepFourDone : Bool)
  /-- the line is released and a start begins, reading the straps -/
  | released (straps : Station) (stepFourDone : Bool)
deriving DecidableEq, Repr

/-- The event that completes the last condition of NS_STARTING (R134). -/
inductive StartingLast where
  /-- the profile decision, with the bytes the profile memory answered -/
  | profileDecision (answered : List Byte)
  /-- the end of the slot check -/
  | slotCheckEnd
  /-- the first drive answer taken: number, position in PU, ready -/
  | driveAnswer (number : Byte) (position : Int) (ready : Bool)
deriving DecidableEq, Repr

/-- The commands: one constructor per row of spec/opcode_table.json, in the table's order. -/
inductive Instr where
  -- timed steps
  | periodExpiry (input : ExpiryInput)
  | gatherExpiry
  | armExpiry
  | moveFire
  | surgeEntryExpiry
  | grantEnd
  | peerStale
  | stickStale
  | holdRampEnd
  | resumeRampEnd
  | resumeGapEnd
  | playbackFinish
  | dwellEnd
  | fadeOutEnd
  | storeTimeLimit (stepFourDone : Bool)
  | brakeTimeout
  | brakeSettleEnd
  | driveSilent
  | followingError
  | linkStarved
  -- starts
  | powerOnReset (straps : Station) (stepFourDone : Bool)
  | resetLine (edge : ResetEdge)
  | profileDecision (answered : List Byte)
  | slotCheckEnd
  | startingEnd (last : StartingLast)
  -- local sides
  | driveAnswer (number : Byte) (position : Int) (ready : Bool)
  | storeCompletion (good : Bool)
  | estopActive (levels : Lines Bool)
  | driveFaultActive (levels : Lines Bool)
  -- the line
  | lineIdle (others : List Byte)
  | frameDeparture
  | frameUnacknowledged
  -- frame arrivals
  | halt (rx : Rx) (cause : HaltCause)
  | surge (rx : Rx)
  | arm (rx : Rx) (tag moveId slot : Byte) (targets : StationSet) (splice : Bool)
  | join (rx : Rx) (moveId : Byte)
  | go (rx : Rx) (tag moveId lead : Byte)
  | hold (rx : Rx) (tag : Option Byte) (moveId : Byte)
  | resume (rx : Rx) (tag : Option Byte) (moveId : Byte)
  | release (rx : Rx) (tag : Option Byte) (moveId : Byte)
  | cancel (rx : Rx) (tag : Option Byte) (moveId : Byte)
  | stick (rx : Rx) (enable : Bool) (channels : List Channel)
  | stateArrival (rx : Rx) (report : StateReport)
  | descriptorArrival (rx : Rx) (page : Byte) (content : List Byte)
  -- SERVICE arrivals
  | query (head : SvcHead) (page : Byte)
  | capture (head : SvcHead) (dur : BitVec 16) (easing : Easing)
  | undo (head : SvcHead)
  | editClear (head : SvcHead)
  | commit (head : SvcHead) (slot : Byte) (autoRelease protect : Bool) (fIn fOut dwell sTrim : BitVec 16)
  | delete (head : SvcHead) (slot : Byte)
  | unprotect (head : SvcHead) (slot : Byte)
  | gotoStart (head : SvcHead) (slot : Byte)
  | park (head : SvcHead) (mode : ParkMode)
  | unpark (head : SvcHead)
  | clear (head : SvcHead)
  | restart (head : SvcHead) (straps : Station)
deriving DecidableEq, Repr

end Sys2Proof
end

