-- ==== Sys2Proof/Decode.lean ====
section
/-! DEFINITION. The layouts of spec/12_formats.md, both ways: frames, the profile image, preset records,
and the two cyclic checks; the tests of receipt (R162, R181); the judgement of a profile (R177, R182).
No row of the opcode table has bits, so `decodeTableWord` answers none. -/

namespace Sys2Proof

/-! ## Encodings of the enumerations: the value columns of the tables, in order -/

def Role.all : List Role := [.swing, .lift, .telescope, .pan, .tilt, .roll]

def Role.code : Role → Nat
  | .swing => 0 | .lift => 1 | .telescope => 2 | .pan => 3 | .tilt => 4 | .roll => 5

def Role.ofCode (n : Nat) : Option Role := Role.all[n]?

def NodeState.all : List NodeState :=
  [.starting, .configFault, .braked, .brakeRelease, .active, .holdPark, .brakeEngage, .stopping, .stopped, .faulted]

def NodeState.code : NodeState → Nat
  | .starting => 0 | .configFault => 1 | .braked => 2 | .brakeRelease => 3 | .active => 4 | .holdPark => 5
  | .brakeEngage => 6 | .stopping => 7 | .stopped => 8 | .faulted => 9

def NodeState.ofCode (n : Nat) : Option NodeState := NodeState.all[n]?

def Phase.all : List Phase :=
  [.gather, .armed, .posted, .running, .holding, .suspended, .resuming, .finished, .releasing]

/-- MP_ values run from 1. -/
def Phase.code : Phase → Nat
  | .gather => 1 | .armed => 2 | .posted => 3 | .running => 4 | .holding => 5 | .suspended => 6
  | .resuming => 7 | .finished => 8 | .releasing => 9

def Phase.ofCode : Nat → Option Phase
  | 0 => none
  | n + 1 => Phase.all[n]?

def ResultCode.all : List ResultCode :=
  [.ok, .busy, .refusedState, .badArgument, .slotEmpty, .slotInvalid, .slotProtected, .slotBusy, .notAtStart,
   .bufferFull, .bufferShort, .storeLocked, .storeFailed, .spliceDenied, .peerLost, .halted, .notStill]

def ResultCode.code : ResultCode → Nat
  | .ok => 0 | .busy => 1 | .refusedState => 2 | .badArgument => 3 | .slotEmpty => 4 | .slotInvalid => 5
  | .slotProtected => 6 | .slotBusy => 7 | .notAtStart => 8 | .bufferFull => 9 | .bufferShort => 10
  | .storeLocked => 11 | .storeFailed => 12 | .spliceDenied => 13 | .peerLost => 14 | .halted => 15 | .notStill => 16

def ResultCode.ofCode (n : Nat) : Option ResultCode := ResultCode.all[n]?

def FaultCause.all : List FaultCause :=
  [.none, .config, .driveFault, .driveSilent, .following, .brakeTimeout, .linkStarved, .stationClash]

def FaultCause.code : FaultCause → Nat
  | .none => 0 | .config => 1 | .driveFault => 2 | .driveSilent => 3 | .following => 4 | .brakeTimeout => 5
  | .linkStarved => 6 | .stationClash => 7

def FaultCause.ofCode (n : Nat) : Option FaultCause := FaultCause.all[n]?

def AbandonReason.all : List AbandonReason :=
  [.superseded, .earlyCue, .joinLate, .armExpired, .moveSplit, .halted, .cancelled, .spliceSet, .drift]

/-- AB_ values run from 1. -/
def AbandonReason.code : AbandonReason → Nat
  | .superseded => 1 | .earlyCue => 2 | .joinLate => 3 | .armExpired => 4 | .moveSplit => 5 | .halted => 6
  | .cancelled => 7 | .spliceSet => 8 | .drift => 9

def AbandonReason.ofCode : Nat → Option AbandonReason
  | 0 => none
  | n + 1 => AbandonReason.all[n]?

def SlotStatus.code : SlotStatus → Nat
  | .empty => 0 | .valid => 1 | .guarded => 2 | .writing => 3 | .erasing => 4 | .invalid => 5

def ProfileStatus.code : ProfileStatus → Nat
  | .reading => 0 | .good => 1 | .unreadable => 2 | .blank => 3 | .checkFailed => 4 | .outOfRange => 5
  | .accelOrder => 6 | .limitOrder => 7 | .ownSource => 8 | .estopMasked => 9

/-! ## Bytes and fields: most significant byte first, signed fields in two's complement -/

def byteOf (n : Nat) : Byte := BitVec.ofNat 8 n

def byteOfBool (b : Bool) : Byte := if b then 1 else 0

def word16 (hi lo : Byte) : BitVec 16 := hi ++ lo

def word32 (b3 b2 b1 b0 : Byte) : BitVec 32 := b3 ++ b2 ++ b1 ++ b0

def bytes16 (w : BitVec 16) : List Byte := [w.extractLsb' 8 8, w.extractLsb' 0 8]

def bytes32 (w : BitVec 32) : List Byte :=
  [w.extractLsb' 24 8, w.extractLsb' 16 8, w.extractLsb' 8 8, w.extractLsb' 0 8]

/-- A byte that stands for yes or no, or true or false: 0 or 1, nothing else lies within the encoding. -/
def boolOfByte (b : Byte) : Option Bool :=
  if b = 0 then some false else if b = 1 then some true else none

def easingOfByte (b : Byte) : Option Easing :=
  if b = 0 then some .linear else if b = 1 then some .smooth else none

def Easing.byte : Easing → Byte
  | .linear => 0
  | .smooth => 1

/-- A byte 0..15 as a station number. -/
def stationOfByte (b : Byte) : Option Station :=
  if h : b.toNat < 16 then some ⟨b.toNat, h⟩ else none

/-! ## The two checks -/

/-- One bit of the CRC-16 of R162, most significant bit first. -/
def crc16Bit (c : BitVec 16) : BitVec 16 :=
  if c.msb then (c <<< 1) ^^^ 0x1021 else c <<< 1

def crc16Byte (c : BitVec 16) (b : Byte) : BitVec 16 :=
  let c0 := c ^^^ ((b.setWidth 16) <<< 8)
  crc16Bit (crc16Bit (crc16Bit (crc16Bit (crc16Bit (crc16Bit (crc16Bit (crc16Bit c0)))))))

/-- R162 and 12.1: polynomial x^16 + x^12 + x^5 + 1, initial value all ones, no final inversion. -/
def crc16 (bs : List Byte) : BitVec 16 := bs.foldl crc16Byte 0xFFFF

/-- One bit of the CRC-32 of R182, least significant bit first: the polynomial's bits reversed. -/
def crc32Bit (c : BitVec 32) : BitVec 32 :=
  if c.getLsbD 0 then (c >>> 1) ^^^ 0xEDB88320 else c >>> 1

def crc32Byte (c : BitVec 32) (b : Byte) : BitVec 32 :=
  let c0 := c ^^^ b.setWidth 32
  crc32Bit (crc32Bit (crc32Bit (crc32Bit (crc32Bit (crc32Bit (crc32Bit (crc32Bit c0)))))))

/-- R182: initial value all ones, bytes taken least significant bit first, the result inverted. -/
def crc32 (bs : List Byte) : BitVec 32 := ~~~ (bs.foldl crc32Byte 0xFFFFFFFF)

/-! ## Frames -/

/-- The FK_ value of a frame's kind. -/
def Frame.kind : Frame → Nat
  | .halt _ => 0 | .surge => 1 | .arm .. => 2 | .join _ => 3 | .go .. => 4 | .hold .. => 5 | .resume .. => 6
  | .release .. => 7 | .cancel .. => 8 | .stick .. => 9 | .state _ => 10 | .service .. => 11 | .descriptor .. => 12

/-- The class of each kind (section 10.1). -/
def kindClass : Nat → Nat
  | 0 => 0 | 1 => 1 | 2 => 2 | 3 => 2 | 4 => 2 | 5 => 2 | 6 => 2 | 7 => 2 | 8 => 2 | 9 => 3 | 10 => 4
  | _ => 5

/-- A frame's class (section 10.1). -/
def Frame.cls (f : Frame) : Nat := kindClass f.kind

/-- The key byte: the class in bits 7..4, the source station in bits 3..0 (12.1). -/
def keyByte (cls : Nat) (src : Station) : Byte := byteOf (16 * cls + src.val)

/-- A participant set agrees with its move report: present exactly beside a move id, and empty only in
MP_GATHER (R181, and the STATE payload table). -/
def partsAgree (report : Option MoveReport) (parts : Option StationSet) : Bool :=
  match report, parts with
  | some (.move _ ph), some m => m != 0 || ph == .gather
  | some (.move _ _), none => false
  | _, some _ => false
  | _, none => true

/-- A STATE report lies within its encoding (12.1, R181). -/
def StateReport.within (r : StateReport) : Bool :=
  decide (-Config.posBound ≤ r.setpoint ∧ r.setpoint ≤ Config.posBound) &&
  decide (-Config.vCeiling ≤ r.velocity ∧ r.velocity ≤ Config.vCeiling) &&
  decide (-Config.posBound ≤ r.ownPos ∧ r.ownPos ≤ Config.posBound) &&
  decide (r.owed ≤ 9) &&
  (match r.timeline with | none => true | some t => decide (t ≤ Config.timelineMax)) &&
  partsAgree r.report r.parts

/-- The content length of a DESCRIPTOR page (12.1). -/
def pageLength (page : Byte) : Nat :=
  match page.toNat with
  | 0 => 9
  | 1 => 26
  | 2 => 25
  | _ => 49

/-- The offset and size of every field of the profile image, check included (12.2). -/
def imageFields : List (Nat × Nat) :=
  [(0, 1), (1, 4), (5, 4), (9, 4), (13, 4), (17, 2), (19, 4), (23, 4), (27, 4), (31, 2), (33, 2), (35, 2),
   (37, 1), (38, 1), (39, 1), (40, 1), (41, 2), (43, 1), (44, 2), (46, 2), (48, 2), (50, 1), (51, 1), (52, 4)]

/-- Page 0 of a DESCRIPTOR after its five bytes of codes and revision (12.1): station, role, profile status, and the
offset of a field of the image or 0xFF. The codes and the revision may hold any value (log entry 36). -/
def identityWithin : List Byte → Bool
  | [station, role, status, failing] =>
    decide (station.toNat < 16) && decide (role.toNat ≤ 5) && decide (status.toNat ≤ 9) &&
      (failing == 0xFF || imageFields.any (fun f => f.1 == failing.toNat))
  | _ => false

/-- Page 3 of a DESCRIPTOR (12.1): 48 slot statuses and the store operation. -/
def slotsWithin (content : List Byte) : Bool :=
  (content.take 48).all (fun b => decide (b.toNat ≤ 5)) && (content.drop 48).all (fun b => decide (b.toNat ≤ 4))

/-- A DESCRIPTOR page's content has the page's length and its fields lie within their encodings (12.1, R181). Pages 1
and 2 repeat fields of a profile image, which can hold any value (R179). -/
def pageWithin (page : Byte) (content : List Byte) : Bool :=
  decide (content.length = pageLength page) &&
  (match page.toNat with
   | 0 => identityWithin (content.drop 5)
   | 1 => true
   | 2 => true
   | 3 => slotsWithin content
   | _ => false)

/-- Every field of the frame lies within its encoding: test 3 of receipt (R162, R181), for what the types
of the fields do not already say. -/
def Frame.within : Frame → Bool
  | .arm _ _ _ targets _ => targets != 0
  | .stick _ channels => decide (1 ≤ channels.length ∧ channels.length ≤ 6)
  | .state r => r.within
  | .descriptor page content => pageWithin page content
  | _ => true

/-- The tagged-or-not payload of HOLD, RESUME, RELEASE and CANCEL: tag present, tag or 0, move id. -/
def cuePayload (tag : Option Byte) (moveId : Byte) : List Byte :=
  match tag with
  | some t => [1, t, moveId]
  | none => [0, 0, moveId]

/-- The operation code and argument bytes of a SERVICE frame (12.1). -/
def Operation.bytes : Operation → List Byte
  | .query page => [0, page]
  | .capture dur easing => [1] ++ bytes16 dur ++ [easing.byte]
  | .undo => [2]
  | .editClear => [3]
  | .commit slot auto protect fIn fOut dwell sTrim =>
      [4, slot, byteOf ((if auto then 1 else 0) + (if protect then 2 else 0))] ++
        bytes16 fIn ++ bytes16 fOut ++ bytes16 dwell ++ bytes16 sTrim
  | .delete slot => [5, slot]
  | .unprotect slot => [6, slot]
  | .gotoStart slot => [7, slot]
  | .park .hold => [8, 0]
  | .park .brake => [8, 1]
  | .unpark => [9]
  | .clear => [10]
  | .restart => [11]

/-- The flags byte of a STATE payload (12.1). -/
def StateReport.flags (r : StateReport) : Byte :=
  let isAb := match r.report with | some (.abandoned _) => true | _ => false
  byteOf ((if r.surgeGranted then 1 else 0) + (if r.stickLost then 2 else 0) +
    (if r.report.isSome then 4 else 0) + (if isAb then 8 else 0) + (if r.parts.isSome then 16 else 0) +
    (if r.timeline.isSome then 32 else 0) + (if r.lastResult.isSome then 64 else 0))

/-- Bytes 17 and 18 of a STATE payload: move id or abandon reason, and move phase. -/
def moveReportBytes : Option MoveReport → List Byte
  | none => [0, 0]
  | some (.move id ph) => [id, byteOf ph.code]
  | some (.abandoned a) => [byteOf a.code, 0]

/-- Bytes 25 and 26 of a STATE payload. -/
def lastResultBytes : Option (Byte × ResultCode) → List Byte
  | none => [0, 0]
  | some (tag, rc) => [tag, byteOf rc.code]

/-- The 27 bytes of a STATE payload. -/
def StateReport.bytes (r : StateReport) : List Byte :=
  [byteOf r.role.code, byteOf r.nodeState.code, byteOf r.cause.code, r.flags] ++
  bytes32 (BitVec.ofInt 32 r.setpoint) ++ bytes32 (BitVec.ofInt 32 r.velocity) ++
  bytes32 (BitVec.ofInt 32 r.ownPos) ++ [byteOf r.owed] ++ moveReportBytes r.report ++
  bytes16 (r.parts.getD 0) ++ bytes32 (BitVec.ofNat 32 (r.timeline.getD 0)) ++ lastResultBytes r.lastResult

/-- A frame's payload (12.1). -/
def Frame.payload : Frame → List Byte
  | .halt .estopLine => [0]
  | .halt .console => [1]
  | .surge => []
  | .arm tag moveId slot targets splice => [tag, moveId, slot] ++ bytes16 targets ++ [byteOfBool splice]
  | .join moveId => [moveId]
  | .go tag moveId lead => [tag, moveId, lead]
  | .hold tag moveId => cuePayload tag moveId
  | .resume tag moveId => cuePayload tag moveId
  | .release tag moveId => cuePayload tag moveId
  | .cancel tag moveId => cuePayload tag moveId
  | .stick enable channels =>
      [byteOfBool enable, byteOf channels.length] ++
        channels.flatMap (fun c => [byteOf c.role.code] ++ bytes16 c.deflection)
  | .state r => r.bytes
  | .service tag target op => [tag, byteOf target.val] ++ op.bytes
  | .descriptor page content => [page] ++ content

/-- The bytes of a frame up to its check: key, kind, payload length, payload. -/
def Frame.body (src : Station) (f : Frame) : List Byte :=
  [keyByte f.cls src, byteOf f.kind, byteOf f.payload.length] ++ f.payload

/-- The whole frame as it stands on the line (12.1). -/
def Frame.bytes (src : Station) (f : Frame) : List Byte :=
  f.body src ++ bytes16 (crc16 (f.body src))

/-- The payload of HOLD, RESUME, RELEASE and CANCEL, read back: the tag is 0 when it is absent. -/
def readCue (p : List Byte) : Option (Option Byte × Byte) :=
  match p with
  | [present, tag, moveId] =>
    if present = 1 then some (some tag, moveId)
    else if present = 0 ∧ tag = 0 then some (none, moveId)
    else none
  | _ => none

/-- The channels of a STICK payload: exactly `n` of them, each a role and a deflection. -/
def readChannels : Nat → List Byte → Option (List Channel)
  | 0, [] => some []
  | n + 1, role :: hi :: lo :: rest =>
    match Role.ofCode role.toNat, readChannels n rest with
    | some r, some cs => some (⟨r, word16 hi lo⟩ :: cs)
    | _, _ => none
  | _, _ => none

/-- The operation of a SERVICE payload, its argument count taken from the frame itself (R181). -/
def readOperation (p : List Byte) : Option Operation :=
  match p with
  | [] => none
  | code :: args =>
    match code.toNat, args with
    | 0, [page] => some (.query page)
    | 1, [hi, lo, e] => (easingOfByte e).map (.capture (word16 hi lo) ·)
    | 2, [] => some .undo
    | 3, [] => some .editClear
    | 4, [slot, flags, a1, a0, b1, b0, c1, c0, d1, d0] =>
      if flags.toNat < 4 then
        some (.commit slot (flags.getLsbD 0) (flags.getLsbD 1) (word16 a1 a0) (word16 b1 b0) (word16 c1 c0) (word16 d1 d0))
      else none
    | 5, [slot] => some (.delete slot)
    | 6, [slot] => some (.unprotect slot)
    | 7, [slot] => some (.gotoStart slot)
    | 8, [mode] => if mode = 0 then some (.park .hold) else if mode = 1 then some (.park .brake) else none
    | 9, [] => some .unpark
    | 10, [] => some .clear
    | 11, [] => some .restart
    | _, _ => none

/-- Bytes 17 and 18 of a STATE payload, read by flag bits 2 and 3. -/
def readMoveReport (present abandon : Bool) (idOrReason phase : Byte) : Option (Option MoveReport) :=
  match present, abandon with
  | false, false => if idOrReason = 0 ∧ phase = 0 then some none else none
  | false, true => none
  | true, false => (Phase.ofCode phase.toNat).map (fun ph => some (.move idOrReason ph))
  | true, true =>
    if phase = 0 then (AbandonReason.ofCode idOrReason.toNat).map (fun a => some (.abandoned a)) else none

/-- A field that is 0 when its presence flag is clear. -/
def readOptional {α : Type} (present isZero : Bool) (value : α) : Option (Option α) :=
  if present then some (some value) else if isZero then some none else none

/-- The last result of a STATE payload. -/
def readLastResult (present : Bool) (tag rc : Byte) : Option (Option (Byte × ResultCode)) :=
  if present then (ResultCode.ofCode rc.toNat).map (fun c => some (tag, c))
  else if tag = 0 ∧ rc = 0 then some none else none

/-- The STATE payload, read back (12.1, R181). -/
def readState (p : List Byte) : Option StateReport :=
  match p with
  | [role, ns, fc, flags, s3, s2, s1, s0, v3, v2, v1, v0, o3, o2, o1, o0, owed, idr, phase, m1, m0,
     t3, t2, t1, t0, tag, rc] =>
    if flags.getLsbD 7 then none else
    match Role.ofCode role.toNat, NodeState.ofCode ns.toNat, FaultCause.ofCode fc.toNat,
      readMoveReport (flags.getLsbD 2) (flags.getLsbD 3) idr phase,
      readOptional (flags.getLsbD 4) (word16 m1 m0 == 0) (word16 m1 m0),
      readOptional (flags.getLsbD 5) (word32 t3 t2 t1 t0 == 0) (word32 t3 t2 t1 t0).toNat,
      readLastResult (flags.getLsbD 6) tag rc with
    | some role, some ns, some fc, some report, some parts, some timeline, some last =>
      some { role := role, nodeState := ns, cause := fc, setpoint := (word32 s3 s2 s1 s0).toInt,
             velocity := (word32 v3 v2 v1 v0).toInt, ownPos := (word32 o3 o2 o1 o0).toInt, report := report,
             parts := parts, timeline := timeline, surgeGranted := flags.getLsbD 0,
             stickLost := flags.getLsbD 1, owed := owed.toNat, lastResult := last }
    | _, _, _, _, _, _, _ => none
  | _ => none

/-- The payload of a frame of kind `k`, read back. -/
def readPayload (k : Nat) (p : List Byte) : Option Frame :=
  match k with
  | 0 => match p with
    | [c] => if c = 0 then some (.halt .estopLine) else if c = 1 then some (.halt .console) else none
    | _ => none
  | 1 => if p.isEmpty then some .surge else none
  | 2 => match p with
    | [tag, moveId, slot, hi, lo, sp] => (boolOfByte sp).map (.arm tag moveId slot (word16 hi lo) ·)
    | _ => none
  | 3 => match p with
    | [moveId] => some (.join moveId)
    | _ => none
  | 4 => match p with
    | [tag, moveId, lead] => some (.go tag moveId lead)
    | _ => none
  | 5 => (readCue p).map (fun c => .hold c.1 c.2)
  | 6 => (readCue p).map (fun c => .resume c.1 c.2)
  | 7 => (readCue p).map (fun c => .release c.1 c.2)
  | 8 => (readCue p).map (fun c => .cancel c.1 c.2)
  | 9 => match p with
    | enable :: count :: rest =>
      match boolOfByte enable, readChannels count.toNat rest with
      | some e, some cs => some (.stick e cs)
      | _, _ => none
    | _ => none
  | 10 => (readState p).map .state
  | 11 => match p with
    | tag :: target :: op =>
      match stationOfByte target, readOperation op with
      | some st, some o => some (.service tag st o)
      | _, _ => none
    | _ => none
  | 12 => match p with
    | page :: content => some (.descriptor page content)
    | [] => none
  | _ => none

/-- Test 1 of receipt (R162): the check computed over the frame equals the frame's check. The acknowledge is
given exactly on this test. -/
def checkGood (bs : List Byte) : Bool :=
  decide (5 ≤ bs.length) && (bs.drop (bs.length - 2) == bytes16 (crc16 (bs.take (bs.length - 2))))

/-- The three tests of receipt (R162, R181): the source station and the frame, or none when it is discarded. -/
def receiveFrame (bs : List Byte) : Option (Station × Frame) :=
  if !checkGood bs then none else
  match bs.take (bs.length - 2) with
  | key :: kind :: len :: payload =>
    if kind.toNat ≤ 12 ∧ payload.length = len.toNat ∧ key.toNat / 16 = kindClass kind.toNat then
      match stationOfByte (byteOf (key.toNat % 16)), readPayload kind.toNat payload with
      | some src, some f => if f.within then some (src, f) else none
      | _, _ => none
    else none
  | _ => none

/-! ## Frames and commands -/

/-- The frame whose arrival a command is, with how it came; none for a command that is no arrival. -/
def Instr.arrival? : Instr → Option (Rx × Frame)
  | .halt rx c => some (rx, .halt c)
  | .surge rx => some (rx, .surge)
  | .arm rx tag moveId slot targets sp => some (rx, .arm tag moveId slot targets sp)
  | .join rx moveId => some (rx, .join moveId)
  | .go rx tag moveId lead => some (rx, .go tag moveId lead)
  | .hold rx tag moveId => some (rx, .hold tag moveId)
  | .resume rx tag moveId => some (rx, .resume tag moveId)
  | .release rx tag moveId => some (rx, .release tag moveId)
  | .cancel rx tag moveId => some (rx, .cancel tag moveId)
  | .stick rx enable channels => some (rx, .stick enable channels)
  | .stateArrival rx r => some (rx, .state r)
  | .descriptorArrival rx page content => some (rx, .descriptor page content)
  | .query h page => some (h.rx, .service h.tag h.target (.query page))
  | .capture h dur e => some (h.rx, .service h.tag h.target (.capture dur e))
  | .undo h => some (h.rx, .service h.tag h.target .undo)
  | .editClear h => some (h.rx, .service h.tag h.target .editClear)
  | .commit h slot a p fi fo dw st => some (h.rx, .service h.tag h.target (.commit slot a p fi fo dw st))
  | .delete h slot => some (h.rx, .service h.tag h.target (.delete slot))
  | .unprotect h slot => some (h.rx, .service h.tag h.target (.unprotect slot))
  | .gotoStart h slot => some (h.rx, .service h.tag h.target (.gotoStart slot))
  | .park h mode => some (h.rx, .service h.tag h.target (.park mode))
  | .unpark h => some (h.rx, .service h.tag h.target .unpark)
  | .clear h => some (h.rx, .service h.tag h.target .clear)
  | .restart h _ => some (h.rx, .service h.tag h.target .restart)
  | .periodExpiry _ | .gatherExpiry | .armExpiry | .moveFire | .surgeEntryExpiry | .grantEnd | .peerStale
  | .stickStale | .holdRampEnd | .resumeRampEnd | .resumeGapEnd | .playbackFinish | .dwellEnd | .fadeOutEnd
  | .storeTimeLimit _ | .brakeTimeout | .brakeSettleEnd | .driveSilent | .followingError | .linkStarved
  | .powerOnReset _ _ | .resetLine _ | .profileDecision _ | .slotCheckEnd | .startingEnd _ | .driveAnswer _ _ _
  | .storeCompletion _ | .estopActive _ | .driveFaultActive _ | .lineIdle _ | .frameDeparture
  | .frameUnacknowledged => none

/-- The command that the arrival of a frame is. `straps` are the levels of the strap pins, which a taken
RESTART reads (R148, R174). -/
def Frame.command (rx : Rx) (straps : Station) : Frame → Instr
  | .halt c => .halt rx c
  | .surge => .surge rx
  | .arm tag moveId slot targets sp => .arm rx tag moveId slot targets sp
  | .join moveId => .join rx moveId
  | .go tag moveId lead => .go rx tag moveId lead
  | .hold tag moveId => .hold rx tag moveId
  | .resume tag moveId => .resume rx tag moveId
  | .release tag moveId => .release rx tag moveId
  | .cancel tag moveId => .cancel rx tag moveId
  | .stick enable channels => .stick rx enable channels
  | .state r => .stateArrival rx r
  | .descriptor page content => .descriptorArrival rx page content
  | .service tag target op =>
    let h : SvcHead := ⟨rx, tag, target⟩
    match op with
    | .query page => .query h page
    | .capture dur e => .capture h dur e
    | .undo => .undo h
    | .editClear => .editClear h
    | .commit slot a p fi fo dw st => .commit h slot a p fi fo dw st
    | .delete slot => .delete h slot
    | .unprotect slot => .unprotect h slot
    | .gotoStart slot => .gotoStart h slot
    | .park mode => .park h mode
    | .unpark => .unpark h
    | .clear => .clear h
    | .restart => .restart h straps

/-- The command that the bytes of a frame, completing on the line, give this node; none when they are
discarded (R162). -/
def receiveCommand (own : Bool) (straps : Station) (bs : List Byte) : Option Instr :=
  (receiveFrame bs).map (fun p => p.2.command ⟨p.1, own⟩ straps)

/-! ## The profile image (R175 to R177, R182) -/

def imageLength : Nat := 56

def byteAt (img : List Byte) (n : Nat) : Byte := img.getD n 0

def u16At (img : List Byte) (n : Nat) : Int := (word16 (byteAt img n) (byteAt img (n + 1))).toNat

def s16At (img : List Byte) (n : Nat) : Int := (word16 (byteAt img n) (byteAt img (n + 1))).toInt

def s32At (img : List Byte) (n : Nat) : Int :=
  (word32 (byteAt img n) (byteAt img (n + 1)) (byteAt img (n + 2)) (byteAt img (n + 3))).toInt

/-- The copy of the image after a read that answered these bytes: a field the read did not reach whole is
shown as 0 (R179; log entry 17). -/
def imageCopy (answered : List Byte) : List Byte :=
  imageFields.flatMap (fun f =>
    if f.1 + f.2 ≤ answered.length then (answered.drop f.1).take f.2 else List.replicate f.2 0)

/-- A line bit of the polarity or mask byte: 0 ESTOP, 1 LIMIT_POS, 2 LIMIT_NEG, 3 DRIVE_FAULT, 4 BRAKE_FB. -/
def linesOfByte (b : Byte) : Lines Bool :=
  { estop := b.getLsbD 0, limitPos := b.getLsbD 1, limitNeg := b.getLsbD 2, driveFault := b.getLsbD 3,
    brakeFb := b.getLsbD 4 }

/-- The profile's values as an image holds them. They are taken only when the image is accepted (R177). -/
def readProfile (img : List Byte) : Profile :=
  { role := (Role.ofCode (byteAt img 0).toNat).getD .swing
    pMin := s32At img 1
    pMax := s32At img 5
    lMax := s32At img 9
    r0 := s32At img 13
    tTip := u16At img 17
    vAxisMax := s32At img 19
    vs := s32At img 23
    vApproach := s32At img 27
    aLow := u16At img 31
    aHigh := u16At img 33
    aStop := u16At img 35
    deadband := (byteAt img 37).toNat
    curve := if byteAt img 38 = 1 then .square else .linear
    stickSource := stationOfByte (byteAt img 39)
    followSource := stationOfByte (byteAt img 40)
    rf := s16At img 41
    extSource := stationOfByte (byteAt img 43)
    startTol := u16At img 44
    feLimit := u16At img 46
    brakeTimeout := (u16At img 48).toNat
    polarity := linesOfByte (byteAt img 50)
    mask := linesOfByte (byteAt img 51) }

/-- The role is SWING or LIFT, for which the tip-speed fields are checked and read (R25, R176). -/
def Role.hasTip : Role → Bool
  | .swing | .lift => true
  | .telescope | .pan | .tilt | .roll => false

/-- A station byte of the image: 0..15, or 0xFF for none. -/
def stationByteOk (b : Byte) : Bool := decide (b.toNat < 16) || b == 0xFF

def inRange (lo hi x : Int) : Bool := decide (lo ≤ x ∧ x ≤ hi)

/-- The range tests of R176 in the table's order: each field's offset and whether it lies in its range. The
four fields of SWING and LIFT alone are not checked for other roles. -/
def rangeTests (img : List Byte) : List (Nat × Bool) :=
  let p := readProfile img
  let tip := p.role.hasTip
  [(0, decide ((byteAt img 0).toNat ≤ 5)),
   (1, inRange (-Config.posBound) Config.posBound p.pMin),
   (5, inRange (-Config.posBound) Config.posBound p.pMax),
   (9, !tip || inRange 0 4000000 p.lMax),
   (13, !tip || inRange 1 2000000 p.r0),
   (17, !tip || inRange 1 2000 p.tTip),
   (19, inRange 1 Config.vCeiling p.vAxisMax),
   (23, inRange 1 p.vAxisMax p.vs),
   (27, inRange 1 p.vAxisMax p.vApproach),
   (31, inRange 1 65535 p.aLow),
   (33, inRange 1 65535 p.aHigh),
   (35, inRange 1 65535 p.aStop),
   (37, inRange 0 255 p.deadband),
   (38, decide ((byteAt img 38).toNat ≤ 1)),
   (39, stationByteOk (byteAt img 39)),
   (40, stationByteOk (byteAt img 40)),
   (41, inRange (-512) 512 p.rf),
   (43, !tip || stationByteOk (byteAt img 43)),
   (44, inRange 0 65535 p.startTol),
   (46, inRange 1 65535 p.feLimit),
   (48, inRange 1 500 p.brakeTimeout),
   (50, decide ((byteAt img 50).toNat < 32)),
   (51, decide ((byteAt img 51).toNat < 32))]

/-- The offset of the first field outside its range, in the table's order. -/
def firstOutOfRange (img : List Byte) : Option Nat :=
  ((rangeTests img).find? (fun t => !t.2)).map (·.1)

/-- The offset of the first source field that names the node's own station (check 6 of R177). -/
def firstOwnSource (img : List Byte) (station : Station) : Option Nat :=
  let p := readProfile img
  if p.followSource = some station then some 40
  else if p.role.hasTip ∧ p.extSource = some station then some 43
  else none

/-- The checks of R177 over an image read to its end, in order: the status and the failing field. -/
def judgeImage (img : List Byte) (station : Station) : ProfileStatus × Option Nat :=
  let p := readProfile img
  if img.all (· == 0xFF) then (.blank, none)
  else if bytes32 (crc32 (img.take 52)) ≠ img.drop 52 then (.checkFailed, none)
  else match firstOutOfRange img with
  | some off => (.outOfRange, some off)
  | none =>
    if p.aLow > p.aHigh ∨ p.aHigh > p.aStop then (.accelOrder, none)
    else if p.pMin ≥ p.pMax then (.limitOrder, none)
    else match firstOwnSource img station with
    | some off => (.ownSource, some off)
    | none => if p.mask.estop then (.estopMasked, none) else (.good, none)

/-- The profile decision (R175, R177): a read that did not reach the end of the image is UNREADABLE. -/
def judgeProfile (answered : List Byte) (station : Station) : ProfileStatus × Option Nat :=
  if answered.length < imageLength then (.unreadable, none)
  else judgeImage (answered.take imageLength) station

/-! ## Preset records (R117, R182) -/

/-- A record's field ranges (R117): a record is well-formed when each field lies in its range. -/
def Keyframe.placed (k : Keyframe) : Bool :=
  inRange (-Config.fineBound) Config.fineBound k.pos

/-- A keyframe after the first: its motion is present and its duration in range. -/
def Keyframe.later (k : Keyframe) : Bool :=
  k.placed && (match k.motion with | some m => decide (1 ≤ m.dur ∧ m.dur ≤ Config.segMax) | none => false)

/-- Well-formedness of a record (R117). -/
def Preset.wellFormed (p : Preset) : Bool :=
  decide (2 ≤ p.keys.length ∧ p.keys.length ≤ Config.keysMax) &&
  (match p.keys with
   | [] => false
   | k :: ks => k.placed && k.motion.isNone && ks.all Keyframe.later) &&
  decide (p.fIn ≤ Config.fadeMax ∧ p.fOut ≤ Config.fadeMax ∧ p.dwell ≤ Config.fadeMax ∧ p.sTrim ≤ 256)

/-- A keyframe's seven bytes; duration and easing are 0 and 0 where they are absent. -/
def Keyframe.bytes (k : Keyframe) : List Byte :=
  bytes32 (BitVec.ofInt 32 k.pos) ++
  (match k.motion with
   | some m => bytes16 (BitVec.ofNat 16 m.dur) ++ [m.easing.byte]
   | none => [0, 0, 0])

/-- The record as R182 lays it out, over which its check is computed. -/
def Preset.bytes (p : Preset) : List Byte :=
  [byteOf p.keys.length] ++ p.keys.flatMap Keyframe.bytes ++
  bytes16 (BitVec.ofNat 16 p.fIn) ++ bytes16 (BitVec.ofNat 16 p.fOut) ++ bytes16 (BitVec.ofNat 16 p.dwell) ++
  bytes16 (BitVec.ofNat 16 p.sTrim) ++
  [byteOf ((if p.autoRelease then 1 else 0) + (if p.protect then 2 else 0))]

/-- The record and its check, most significant byte first. -/
def Preset.checkedBytes (p : Preset) : List Byte := p.bytes ++ bytes32 (crc32 p.bytes)

/-- Keyframes after the first, `n` of them, with what follows them. -/
def readLaterKeys : Nat → List Byte → Option (List Keyframe × List Byte)
  | 0, bs => some ([], bs)
  | n + 1, p3 :: p2 :: p1 :: p0 :: d1 :: d0 :: e :: rest =>
    match easingOfByte e, readLaterKeys n rest with
    | some e, some (ks, tail) =>
      some (⟨(word32 p3 p2 p1 p0).toInt, some ⟨(word16 d1 d0).toNat, e⟩⟩ :: ks, tail)
    | _, _ => none
  | _ + 1, _ => none

/-- The keyframe list: keyframe 0 carries 0 and 0 for duration and easing. -/
def readKeys : Nat → List Byte → Option (List Keyframe × List Byte)
  | 0, bs => some ([], bs)
  | n + 1, p3 :: p2 :: p1 :: p0 :: 0 :: 0 :: 0 :: rest =>
    (readLaterKeys n rest).map (fun r => (⟨(word32 p3 p2 p1 p0).toInt, none⟩ :: r.1, r.2))
  | _ + 1, _ => none

/-- A region's bytes decoded by the layout of R182, check apart. Unused flag bits are 0 (log entry 18). Record and check
fill the bytes exactly: the spec gives a region no size beyond them, and the model none (log entry 34). -/
def readRecord (bs : List Byte) : Option (Preset × List Byte) :=
  match bs with
  | [] => none
  | count :: rest =>
    match readKeys count.toNat rest with
    | some (keys, [a1, a0, b1, b0, c1, c0, d1, d0, flags, k3, k2, k1, k0]) =>
      if flags.toNat < 4 then
        some ({ keys := keys, fIn := (word16 a1 a0).toNat, fOut := (word16 b1 b0).toNat,
                dwell := (word16 c1 c0).toNat, sTrim := (word16 d1 d0).toNat,
                autoRelease := flags.getLsbD 0, protect := flags.getLsbD 1 }, [k3, k2, k1, k0])
      else none
    | _ => none

/-- The record of a region, when its check matches and it is well-formed (R119). -/
def checkedRecord (bs : List Byte) : Option Preset :=
  match readRecord bs with
  | some (p, check) =>
    if bytes32 (crc32 (bs.take (bs.length - 4))) = check ∧ p.wellFormed then some p else none
  | none => none

/-! ## The table's words -/

/-- The command a table word spells: no row of spec/opcode_table.json gives bits, so none. -/
def decodeTableWord (_nbits _w : Nat) : Option Instr := none

end Sys2Proof
end

