-- ==== Sys2Proof/WellFormed.lean ====
section
/-! DEFINITION. Which commands are well-formed: a frame's fields lie within their encodings (R181), and an
expiry's order names each block once with the move engine before the setpoint operation (R3). A command that
is not well-formed does not stop the model: an ill-formed frame is discarded (R162), and an ill-formed order
stands for a well-formed one (log entry 2). -/

namespace Sys2Proof

/-- The blocks in the order they react when nothing else is said. -/
def Block.all : List Block := [.lines, .peers, .surge, .store, .axis, .moves, .setpoint]

/-- The order names each block exactly once, the move engine's hand-over before the setpoint operation that
uses it (R3). -/
def orderWellFormed (order : List Block) : Bool :=
  decide (order.length = 7) && Block.all.all (order.contains ·) &&
  decide (order.idxOf .moves < order.idxOf .setpoint)

/-- Well-formedness of a command. -/
def Instr.wellFormed (i : Instr) : Bool :=
  match i with
  | .periodExpiry input => orderWellFormed input.order
  | _ =>
    match i.arrival? with
    | some (_, f) => f.within
    | none => true

end Sys2Proof
end

