-- ==== Sys2Proof/Machine/State.lean ====
section
/-! DEFINITION. Everything the spec gives the node to hold, one structure a block (00_scope.md, "Blocks"),
the queue of waiting commands, and the state right after reset. Plain data throughout. -/

namespace Sys2Proof.Machine

/-! ## Link interface (10_the_arm_link.md) -/

/-- The five lanes of the transmit queue (R165). -/
inductive Lane where
  | halt | surge | cue | state | service
deriving DecidableEq, Repr

/-- A frame in a lane. A JOIN carries the number of the context it was made for (log entry 8). -/
structure Queued where
  frame : Frame
  ctx : Option Nat
deriving DecidableEq, Repr

/-- The node's frame that the line has taken (R165): the lane it left, and whether a withdrawal waits for its
end (R167). -/
structure OnLine where
  lane : Lane
  item : Queued
  withdrawn : Bool
deriving DecidableEq, Repr

/-- State of the link interface. -/
structure Link where
  haltLane : List Queued
  surgeLane : List Queued
  cueLane : List Queued
  stateLane : List Queued
  serviceLane : List Queued
  onLine : Option OnLine
  /-- the frame that departed last and whose loopback may follow (R161; log entry 7) -/
  departed : Option Frame
  owed : Nat
  echo : Option (Byte × ResultCode)
deriving DecidableEq, Repr

/-! ## Peer table (03_peer_table_and_stick_record.md) -/

/-- A peer entry (R44): what the table keeps of the last STATE frame, and its age. -/
structure PeerEntry where
  setpoint : Int
  velocity : Int
  report : Option MoveReport
  parts : Option StationSet
  timeline : Option Nat
  age : Nat
deriving DecidableEq, Repr

/-- The stick record (R53). -/
structure StickRecord where
  enable : Bool
  d : Int
  age : Nat
deriving DecidableEq, Repr

/-- The peer table's two collections. -/
structure Peers where
  entries : Vector (Option PeerEntry) 16
  stick : Option StickRecord
deriving DecidableEq, Repr

/-! ## Blend engine, limiter and setpoint stage -/

/-- The blend engine keeps the follow accumulator alone (R17). -/
structure Blend where
  F : Int
deriving DecidableEq, Repr

/-- The three values of section 2.1. -/
structure Limiter where
  S : Int
  vc : Int
  vPrev : Int
deriving DecidableEq, Repr

/-! ## Surge unit (04_the_surge_window.md) -/

/-- The own claim status (R57). -/
inductive ClaimStatus where
  | none | queued | sent | granted
deriving DecidableEq, Repr

/-- An accepted claim and its remaining life (R57). -/
structure Claim where
  src : Station
  life : Nat
deriving DecidableEq, Repr

/-- State of the surge unit, the window oldest first. -/
structure Surge where
  window : List Claim
  status : ClaimStatus
  countdown : Nat
deriving DecidableEq, Repr

/-! ## Move engine (05_gathering_and_cueing_a_joint_move.md, 06_playback.md) -/

/-- Context kinds (section 5.1). -/
inductive MoveKind where
  | joint | approach
deriving DecidableEq, Repr

/-- The own JOIN of a context (R70, R76, R77). -/
inductive OwnJoin where
  | queued | sent | dropped | heard
deriving DecidableEq, Repr

/-- The two places for contexts (R70). -/
inductive Place where
  | active | pending
deriving DecidableEq, Repr

/-- A move context (R70, R92). -/
structure Context where
  moveId : Byte
  kind : MoveKind
  slot : Fin 48
  preset : Preset
  parts : StationSet
  /-- absent for an APPROACH context, which sends no JOIN (log entry 27) -/
  ownJoin : Option OwnJoin
  phase : Phase
  gatherCd : Nat
  armedCd : Nat
  postCd : Nat
  /-- R84 has found the post countdown of this PENDING context at 0 (R109) -/
  due : Bool
  releaseAtEnd : Bool
  t : Nat
  k : Nat
  r : Nat
  lam : Nat
  w : Nat
  fadeIn : Nat
  wFloor : Nat
  fadeOut : Nat
  w0 : Nat
  dwell : Nat
  gap : Nat
  deferred : Bool
  /-- the model's number of this context, which its JOIN frame carries (log entry 8) -/
  serial : Nat
deriving DecidableEq, Repr

/-- What the move engine hands the blend engine for one expiry (R3). -/
structure HandOver where
  w : Nat
  sTrim : Nat
  vp : Int
deriving DecidableEq, Repr

/-- State of the move engine. -/
structure Moves where
  active : Option Context
  pending : Option Context
  lastAbandon : Option AbandonReason
  handOver : HandOver
  nextSerial : Nat
deriving DecidableEq, Repr

/-! ## Preset store (07_the_preset_store.md) -/

/-- A slot: its status, and its image exactly when the status is VALID or PROTECTED (R116). A held record
with the protected flag is PROTECTED, one without is VALID. -/
inductive Slot where
  | empty
  | held (image : Preset)
  | writing
  | erasing
  | invalid
deriving DecidableEq, Repr

/-- The kind of a store operation (R118). -/
inductive OpKind where
  | commit | unprotect | delete
deriving DecidableEq, Repr

/-- The operation record (R118). -/
structure OpRecord where
  kind : OpKind
  slot : Fin 48
  tag : Byte
  elapsed : Nat
deriving DecidableEq, Repr

/-- The store operation (R118). A write carries the record given to the store memory (R124, R130), and the
start-up check the number of slots it has decided (R119). -/
inductive StoreOp where
  | idle
  | checking (decided : Nat)
  | writing (op : OpRecord) (record : Preset)
  | erasing (op : OpRecord)
  | locked
deriving DecidableEq, Repr

/-- The completion marker of a region (R120). -/
inductive Marker where
  | erased | incomplete | complete
deriving DecidableEq, Repr

/-- A slot's region in the store memory (R120): the marker, and the bytes of record and check, none when
that area is in the erased state throughout. -/
structure Region where
  marker : Marker
  bytes : List Byte
deriving DecidableEq, Repr

/-- State of the preset store. The regions are non-volatile (R132). -/
structure Store where
  slots : Vector Slot 48
  buffer : List Keyframe
  op : StoreOp
  regions : Vector Region 48
deriving DecidableEq, Repr

/-! ## Axis state machine (08_axis_states.md) -/

/-- State of the axis state machine (R133). -/
structure Axis where
  nodeState : NodeState
  haltLatch : Bool
  cause : FaultCause
  /-- the brake command: yes when released, no when engaged -/
  brakeReleased : Bool
  driveEnable : Bool
  brakeCount : Nat
  settleCount : Nat
  unparkPending : Bool
  releaseConfirmed : Bool
  startFault : Bool
deriving DecidableEq, Repr

/-! ## Drive port and interlock lines (09_drive_port_and_interlock_lines.md) -/

/-- The outcome mark of an exchange (R151). ANSWERED keeps the position of the answer that made it so, which
R154 compares. -/
inductive ExchangeOutcome where
  | awaiting
  | answered (position : Int)
  | notReady
deriving DecidableEq, Repr

/-- The exchange record (R151). -/
structure Exchange where
  number : Byte
  setpoint : Int
  feedForward : Int
  enable : Bool
  tracking : Bool
  outcome : ExchangeOutcome
deriving DecidableEq, Repr

/-- A line's last sample and its status (R157); yes is active. -/
structure LineState where
  sample : Option Bool
  active : Bool
deriving DecidableEq, Repr

/-- State of the drive port and interlock lines block. -/
structure Drive where
  exchange : Option Exchange
  actual : Option Int
  silent : Nat
  following : Nat
  lines : Lines LineState
deriving DecidableEq, Repr

/-! ## Start-up (11_start_up_profile_and_descriptor.md) -/

/-- What a start has learnt (R173 to R177). -/
structure StartUp where
  resetHeld : Bool
  strapsRead : Bool
  station : Station
  status : ProfileStatus
  failing : Option Nat
  image : List Byte
  profile : Profile
deriving DecidableEq, Repr

/-! ## The node -/

/-- The state of the node, and the commands that wait, first in first out. -/
structure State where
  pending : List Instr
  start : StartUp
  link : Link
  peers : Peers
  blend : Blend
  limiter : Limiter
  surge : Surge
  moves : Moves
  store : Store
  axis : Axis
  drive : Drive
deriving DecidableEq, Repr

/-- Faults of the model. Safe: the spec names no event that stops the node, so nothing raises one, and the
type has no member. -/
inductive Fault where
deriving DecidableEq, Repr

/-- Refusals of the model. -/
inductive Refusal where
  /-- Raised by exec's arm of a command that has no meaning yet. Safe: the model stops where the node goes
  on. No arm raises it. -/
  | notModelled (mnemonic : String)
deriving DecidableEq, Repr

/-! ## Reset values -/

/-- Every lane empty, nothing on the line, owed count 0, echo absent (R172). -/
def Link.reset : Link :=
  { haltLane := [], surgeLane := [], cueLane := [], stateLane := [], serviceLane := [], onLine := none,
    departed := none, owed := 0, echo := none }

/-- Every place and the stick record ABSENT (R56). -/
def Peers.reset : Peers := { entries := Vector.replicate 16 none, stick := none }

/-- R69. -/
def Surge.reset : Surge := { window := [], status := .none, countdown := 0 }

/-- The hand-over with no ACTIVE context (R3). -/
def HandOver.zero : HandOver := { w := 0, sTrim := 0, vp := 0 }

/-- R91. -/
def Moves.reset : Moves :=
  { active := none, pending := none, lastAbandon := none, handOver := .zero, nextSerial := 0 }

/-- The erased region. -/
def Region.blank : Region := { marker := .erased, bytes := [] }

/-- R132: the buffer empty, the slot check begun, every slot read as INVALID until it is decided (R119). The
regions are those of the store memory, which a start keeps. -/
def Store.reset (regions : Vector Region 48) : Store :=
  { slots := Vector.replicate 48 .invalid, buffer := [], op := .checking 0, regions := regions }

/-- R134. -/
def Axis.reset : Axis :=
  { nodeState := .starting, haltLatch := false, cause := .none, brakeReleased := false, driveEnable := false,
    brakeCount := 0, settleCount := 0, unparkPending := false, releaseConfirmed := false, startFault := false }

/-- R159. -/
def LineState.reset : LineState := { sample := none, active := false }

/-- R156, R159. -/
def Drive.reset : Drive :=
  { exchange := none, actual := none, silent := 0, following := 0,
    lines := ⟨.reset, .reset, .reset, .reset, .reset⟩ }

/-- The values that stand while no profile is accepted; nothing that moves the axis reads them
(log entry 21). -/
def blankProfile : Profile :=
  { role := .swing, pMin := 0, pMax := 0, lMax := 0, r0 := 0, tTip := 0, vAxisMax := 0, vs := 0, vApproach := 0,
    aLow := 0, aHigh := 0, aStop := 0, deadband := 0, curve := .linear, stickSource := none, followSource := none,
    rf := 0, extSource := none, startTol := 0, feLimit := 0, brakeTimeout := 0,
    polarity := ⟨false, false, false, false, false⟩, mask := ⟨false, false, false, false, false⟩ }

/-- A start with its straps read (R174 step 1): the profile status is READING, and the copy of the image shows
0 in every field (R175, R179). -/
def StartUp.reset (straps : Station) : StartUp :=
  { resetHeld := false, strapsRead := true, station := straps, status := .reading, failing := none,
    image := List.replicate 56 0, profile := blankProfile }

/-- Every block at its reset values at the beginning of a start, over the store memory as it stands. -/
def State.atStart (straps : Station) (regions : Vector Region 48) (queue : List Instr) : State :=
  { pending := queue, start := .reset straps, link := .reset, peers := .reset, blend := ⟨0⟩,
    limiter := ⟨0, 0, 0⟩, surge := .reset, moves := .reset, store := .reset regions, axis := .reset,
    drive := .reset }

/-- The node right after a power-on reset: straps read as station 0, store memory erased (log entry 4). -/
def State.reset : State := State.atStart 0 (Vector.replicate 48 .blank) []

end Sys2Proof.Machine
end

