-- ==== Sys2Proof/Machine/Arith.lean ====
section
/-! DEFINITION. The exact arithmetic of 00_scope.md ("Arithmetic"): the named roundings, the integer square
root, clamping. Floor is integer division by a positive divisor. -/

namespace Sys2Proof.Machine

/-- -1, 0 or 1. -/
def signOf (x : Int) : Int := if x < 0 then -1 else if 0 < x then 1 else 0

/-- The magnitude of `x`. -/
def mag (x : Int) : Int := if x < 0 then -x else x

/-- `x` replaced by the nearer end when it lies outside `lo..hi` (00_scope.md, "Ranges"). -/
def clamp (lo hi x : Int) : Int := if x < lo then lo else if hi < x then hi else x

/-- The clamp of S, F and O to 1,024,000,000 FU either way. -/
def clampFine (x : Int) : Int := clamp (-Config.fineBound) Config.fineBound x

/-- `n / d` rounded to nearest, halves away from zero, for `d > 0`. -/
def roundHalfAway (n d : Int) : Int :=
  if n < 0 then -((2 * (-n) + d) / (2 * d)) else (2 * n + d) / (2 * d)

/-- `n / d` truncated toward zero. -/
def truncDiv (n d : Int) : Int := Int.tdiv n d

/-- The least integer not below `n / d`, for `n ≥ 0` and `d > 0`. -/
def ceilDiv (n d : Int) : Int := (n + d - 1) / d

/-- The root found bit by bit: `r` with every lower bit `k - 1 .. 0` added whose square still fits. -/
def isqrtBits (n : Nat) : Nat → Nat → Nat
  | 0, r => r
  | k + 1, r => isqrtBits n k (if (r + 2 ^ k) * (r + 2 ^ k) ≤ n then r + 2 ^ k else r)

/-- isqrt: the greatest integer whose square does not exceed the argument (00_scope.md). -/
def isqrt (n : Nat) : Nat := isqrtBits n (n.log2 / 2 + 1) 0

end Sys2Proof.Machine
end

