-- ==== Sys2Proof/Machine/Flags.lean ====
section
/-! DEFINITION. What the blocks read of each other: statuses computed from ages and values, and the named
computations on the state as it stands. -/

namespace Sys2Proof

/-- The context has fired (section 5.1). -/
def Phase.fired : Phase → Bool
  | .gather | .armed | .posted => false
  | .running | .holding | .suspended | .resuming | .finished | .releasing => true

/-- The phases in which a PENDING context may stand beside the ACTIVE one (R70). -/
def Phase.playing : Phase → Bool
  | .running | .holding | .suspended | .resuming => true
  | .gather | .armed | .posted | .finished | .releasing => false

/-- The brake command of each node state (section 8.1): released. -/
def NodeState.brakeReleased : NodeState → Bool
  | .brakeRelease | .active | .holdPark | .stopping | .stopped => true
  | .starting | .configFault | .braked | .brakeEngage | .faulted => false

/-- The drive enable of each node state (section 8.1). -/
def NodeState.driveEnable : NodeState → Bool
  | .brakeRelease | .active | .holdPark | .brakeEngage | .stopping | .stopped => true
  | .starting | .configFault | .braked | .faulted => false

/-- The states in which the blend and the limiter chain run (R1, R23). -/
def NodeState.blends : NodeState → Bool
  | .active | .holdPark => true
  | .starting | .configFault | .braked | .brakeRelease | .brakeEngage | .stopping | .stopped | .faulted => false

/-- The states in which the setpoint tracks the drive (R23, R41). -/
def NodeState.tracks : NodeState → Bool
  | .starting | .configFault | .braked | .brakeEngage | .faulted => true
  | .brakeRelease | .active | .holdPark | .stopping | .stopped => false

/-- The states in which v_c and v_prev are 0 (R24). -/
def NodeState.still : NodeState → Bool
  | .starting | .configFault | .braked | .brakeRelease | .brakeEngage | .stopped | .faulted => true
  | .active | .holdPark | .stopping => false

/-- The states in which RESTART is taken (R148). -/
def NodeState.rests : NodeState → Bool
  | .braked | .stopped | .faulted | .configFault => true
  | .starting | .brakeRelease | .active | .holdPark | .brakeEngage | .stopping => false

/-- The faulting causes (R143). -/
def FaultCause.faulting : FaultCause → Bool
  | .driveFault | .driveSilent | .following | .brakeTimeout => true
  | .none | .config | .linkStarved | .stationClash => false

/-! ## Presets (R93) -/

/-- P_k. -/
def Preset.posAt (p : Preset) (k : Nat) : Int := (p.keys[k]?.map (·.pos)).getD 0

/-- The motion of segment k: that of keyframe k + 1. -/
def Preset.motionAt (p : Preset) (k : Nat) : Option Motion := p.keys[k + 1]?.bind (·.motion)

/-- n_k. -/
def Preset.durAt (p : Preset) (k : Nat) : Nat := ((p.motionAt k).map (·.dur)).getD 0

/-- The easing of segment k. -/
def Preset.easingAt (p : Preset) (k : Nat) : Easing := ((p.motionAt k).map (·.easing)).getD .linear

/-- Δ_k. -/
def Preset.delta (p : Preset) (k : Nat) : Int := p.posAt (k + 1) - p.posAt k

/-- T_k. -/
def Preset.segLen (p : Preset) (k : Nat) : Nat := 256 * p.durAt k

/-- B_k, the sum of T_j for j below k. -/
def Preset.bound (p : Preset) : Nat → Nat
  | 0 => 0
  | k + 1 => p.bound k + p.segLen k

/-- The total, B_{count-1}. -/
def Preset.total (p : Preset) : Nat := p.bound (p.keys.length - 1)

/-- How many of the boundaries B_1 .. B_n lie at or before `t`. -/
def Preset.passed (p : Preset) (t : Nat) : Nat → Nat
  | 0 => 0
  | n + 1 => p.passed t n + (if p.bound (n + 1) ≤ t then 1 else 0)

/-- The segment index at `t`: the k with B_k ≤ t < B_{k+1}, and count - 2 at the total (R93). -/
def Preset.segIndex (p : Preset) (t : Nat) : Nat := p.passed t (p.keys.length - 2)

/-- `t` stands on one of the boundaries B_1 .. B_n. -/
def Preset.onBound (p : Preset) (t : Nat) : Nat → Bool
  | 0 => false
  | n + 1 => p.onBound t n || p.bound (n + 1) == t

/-- `t` stands on a keyframe boundary B_1 .. B_{count-1} (R93, R110). -/
def Preset.onBoundary (p : Preset) (t : Nat) : Bool := p.onBound t (p.keys.length - 1)

namespace Machine

/-! ## Peer table and stick record -/

/-- FRESH at ages 0..8 (R44, R53). -/
def freshAge (age : Nat) : Bool := decide (age < Config.staleAge)

/-- A station's entry as it stands. -/
def State.entry (s : State) (n : Station) : Option PeerEntry := s.peers.entries[n.val]

/-- The entry of a station when it is FRESH. -/
def State.freshEntry (s : State) (n : Station) : Option PeerEntry :=
  match s.entry n with
  | some e => if freshAge e.age then some e else none
  | none => none

/-- Every member of a set has a FRESH entry (R82, R101). -/
def State.allFresh (s : State) (m : StationSet) : Bool :=
  allStations.all (fun n => !m.has n || (s.freshEntry n).isSome)

/-- The stick lost flag: the record is STALE or ABSENT (R55). -/
def State.stickLost (s : State) : Bool :=
  match s.peers.stick with
  | some r => !freshAge r.age
  | none => true

/-! ## Position -/

/-- The own position O (R18). -/
def State.ownPos (s : State) : Int := clampFine (s.limiter.S - s.blend.F)

/-- A position in FU as reported in PU: floor (R18, R39). -/
def toPU (x : Int) : Int := x / 256

/-- The actual-position copy as a setpoint, clamped (R41). -/
def trackedSetpoint (p : Int) : Int := clampFine (p * 256)

/-! ## Surge, store, start -/

/-- A grant is in force (R57). -/
def Surge.granted (g : Surge) : Bool := g.status == .granted

/-- A slot's status (R116). -/
def Slot.status : Slot → SlotStatus
  | .empty => .empty
  | .held p => if p.protect then .guarded else .valid
  | .writing => .writing
  | .erasing => .erasing
  | .invalid => .invalid

/-- The store is busy (R118). -/
def StoreOp.busy : StoreOp → Bool
  | .checking _ | .writing _ _ | .erasing _ => true
  | .idle | .locked => false

/-- A write or an erase is in flight. -/
def StoreOp.inFlight : StoreOp → Bool
  | .writing _ _ | .erasing _ => true
  | .idle | .checking _ | .locked => false

/-- The store operation's value on DESCRIPTOR page 3 (section 7.2). -/
def StoreOp.code : StoreOp → Nat
  | .idle => 0
  | .checking _ => 1
  | .writing _ _ => 2
  | .erasing _ => 3
  | .locked => 4

/-- A slot byte as a slot number 0..47. -/
def slotOfByte (b : Byte) : Option (Fin 48) :=
  if h : b.toNat < 48 then some ⟨b.toNat, h⟩ else none

/-- The node runs: its straps are read and the reset line is not held (R173, R180). -/
def State.live (s : State) : Bool := s.start.strapsRead && !s.start.resetHeld

/-- The profile is decided (R134). -/
def StartUp.decided (u : StartUp) : Bool := u.status != .reading

/-- The profile is accepted (R177). -/
def StartUp.accepted (u : StartUp) : Bool := u.status == .good

/-- The period timer runs from the profile decision (R174). -/
def State.timerRuns (s : State) : Bool := s.live && s.start.decided

/-- The role the node reports: the image's role when that field holds one of the six, SWING otherwise (R178,
R179). -/
def State.reportedRole (s : State) : Role := (Role.ofCode (byteAt s.start.image 0).toNat).getD .swing

/-! ## Contexts -/

/-- The context in a place. -/
def Moves.at (m : Moves) : Place → Option Context
  | .active => m.active
  | .pending => m.pending

/-- No context exists. -/
def Moves.none? (m : Moves) : Bool := m.active.isNone && m.pending.isNone

/-- The place of the context that holds a move id; the two places never hold the same one (R72, R74). -/
def Moves.find? (m : Moves) (id : Byte) : Option Place :=
  if m.active.any (·.moveId == id) then some .active
  else if m.pending.any (·.moveId == id) then some .pending
  else none

/-- A context that has not fired and holds a slot guards it against COMMIT and DELETE (R123, R129). -/
def Moves.guards (m : Moves) (slot : Fin 48) : Bool :=
  m.active.any (fun c => c.slot == slot && !c.phase.fired) ||
  m.pending.any (fun c => c.slot == slot && !c.phase.fired)

/-- The PENDING context is due (R109). -/
def Moves.pendingDue (m : Moves) : Bool := m.pending.any (·.due)

end Machine

end Sys2Proof
end

