-- ==== Sys2Proof/Machine/Queue.lean ====
section
/-! DEFINITION. The transmit queue's operations (10.5) and the result echo (10.8), shared by every block that
hands, withdraws or answers. -/

namespace Sys2Proof.Machine

/-- A lane's capacity (R165). -/
def Lane.capacity : Lane → Nat
  | .halt => 1
  | .surge => 1
  | .cue => 4
  | .state => 1
  | .service => 2

/-- The class a lane sends (R165). -/
def Lane.cls : Lane → Nat
  | .halt => 0
  | .surge => 1
  | .cue => 2
  | .state => 4
  | .service => 5

/-- The lanes from the lowest class up (R165). -/
def Lane.all : List Lane := [.halt, .surge, .cue, .state, .service]

/-- A lane's frames, oldest first. -/
def Link.lane (l : Link) : Lane → List Queued
  | .halt => l.haltLane
  | .surge => l.surgeLane
  | .cue => l.cueLane
  | .state => l.stateLane
  | .service => l.serviceLane

/-- A lane's frames replaced. -/
def Link.setLane (l : Link) (k : Lane) (q : List Queued) : Link :=
  match k with
  | .halt => { l with haltLane := q }
  | .surge => { l with surgeLane := q }
  | .cue => { l with cueLane := q }
  | .state => { l with stateLane := q }
  | .service => { l with serviceLane := q }

/-- A frame of this lane is on the line. -/
def Link.laneOnLine (l : Link) (k : Lane) : Bool := l.onLine.any (·.lane == k)

/-- The frames that count against a lane's capacity: its list, and but for the STATE lane its frame on the
line (R165, R168). -/
def Link.load (l : Link) (k : Lane) : Nat :=
  (l.lane k).length + (if k ≠ .state ∧ l.laneOnLine k then 1 else 0)

/-- The lane takes another frame (R166). -/
def Link.room (l : Link) (k : Lane) : Bool := decide (l.load k < k.capacity)

/-- A frame handed to the HALT, SURGE, CUE or SERVICE lane: placed at the end, or dropped at a full lane
(R166). -/
def Link.hand (l : Link) (k : Lane) (q : Queued) : Link :=
  if l.room k then l.setLane k (l.lane k ++ [q]) else l

/-- A withdrawal (R167): a frame in its lane is removed; for one on the line the request waits for its end. -/
def Link.withdraw (l : Link) (k : Lane) (sel : Queued → Bool) : Link :=
  { l.setLane k ((l.lane k).filter (fun q => !sel q)) with
    onLine := l.onLine.map (fun o => if o.lane = k ∧ sel o.item then { o with withdrawn := true } else o) }

/-- The SURGE frame withdrawn (R65). -/
def Link.withdrawSurge (l : Link) : Link := l.withdraw .surge (fun _ => true)

/-- The JOIN made for the context with this number withdrawn (R75, R78, R80). -/
def Link.withdrawJoin (l : Link) (serial : Nat) : Link := l.withdraw .cue (fun q => q.ctx == some serial)

/-- A frame of the node's own with no context. -/
def plain (f : Frame) : Queued := { frame := f, ctx := none }

/-- The result echo takes a pair (R171). -/
def Link.answer (l : Link) (tag : Byte) (rc : ResultCode) : Link := { l with echo := some (tag, rc) }

/-- A frame handed to a lane, on the whole state. -/
def State.hand (s : State) (k : Lane) (q : Queued) : State := { s with link := s.link.hand k q }

/-- The echo of a tagged command. -/
def State.answer (s : State) (tag : Byte) (rc : ResultCode) : State := { s with link := s.link.answer tag rc }

/-- The echo of a cue that may carry no tag: an untagged one leaves it as it stands (R72, R171). -/
def State.answerCue (s : State) (tag : Option Byte) (rc : ResultCode) : State :=
  match tag with
  | some t => s.answer t rc
  | none => s

/-- An untagged HOLD for the CUE lane (R83, R104). -/
def State.handHold (s : State) (id : Byte) : State := s.hand .cue (plain (.hold none id))

/-- An untagged CANCEL for the CUE lane (R78, R85, R106). -/
def State.handCancel (s : State) (id : Byte) : State := s.hand .cue (plain (.cancel none id))

end Sys2Proof.Machine
end

