-- ==== Sys2Proof/Machine/Ops.lean ====
section
/-! DEFINITION. The operations many rules share: discarding and abandoning contexts (5.8), the transitions of
the axis state machine with what every block does at them (8.1, R24, R65, R88), halts (8.4), and fault causes
(8.5). -/

namespace Sys2Proof.Machine

/-! ## Contexts -/

/-- A place's content replaced. -/
def Moves.put (m : Moves) (p : Place) (c : Option Context) : Moves :=
  match p with
  | .active => { m with active := c }
  | .pending => { m with pending := c }

/-- A place's content replaced, on the whole state. -/
def State.putContext (s : State) (p : Place) (c : Option Context) : State :=
  { s with moves := s.moves.put p c }

/-- The ACTIVE context changed where there is one. -/
def State.mapActive (s : State) (f : Context → Context) : State :=
  { s with moves := { s.moves with active := s.moves.active.map f } }

/-- A context's own JOIN withdrawn where it is still QUEUED, whatever the phase (R75). -/
def joinTakenBack (l : Link) (c : Context) : Link :=
  if c.ownJoin = some .queued then l.withdrawJoin c.serial else l

/-- The link after a context's discard: an own JOIN still QUEUED in MP_GATHER is withdrawn (R80). Past MP_GATHER it
stays in its lane, but for a supersede: the model's reading of R86 to R90 (log entry 31). -/
def joinWithdrawn (l : Link) (c : Context) : Link :=
  if c.phase = .gather then joinTakenBack l c else l

/-- The context in a place discarded, with no abandon reason of its own. -/
def State.discard (s : State) (p : Place) : State :=
  match s.moves.at p with
  | none => s
  | some c => { s with moves := s.moves.put p none, link := joinWithdrawn s.link c }

/-- The last abandon reason set (R71). -/
def State.setAbandon (s : State) (a : AbandonReason) : State :=
  { s with moves := { s.moves with lastAbandon := some a } }

/-- Entry into MP_RELEASING (R99). -/
def Context.release (c : Context) : Context :=
  { c with phase := .releasing, w0 := c.w, fadeOut := 0, w := if c.preset.fOut = 0 then 0 else c.w }

/-- A PENDING context abandoned (R86): discarded. -/
def State.abandonPending (s : State) (a : AbandonReason) : State :=
  if s.moves.pending.isSome then (s.setAbandon a).discard .pending else s

/-- The ACTIVE context abandoned for any reason but a halt (R86): discarded if it has not fired, into
MP_RELEASING if it has, untouched if it is there already; a PENDING context goes with it (R90). -/
def State.abandonActive (s : State) (a : AbandonReason) : State :=
  match s.moves.active with
  | none => s
  | some c =>
    if c.phase = .releasing then s
    else if c.phase.fired then (((s.setAbandon a).putContext .active (some c.release))).abandonPending a
    else ((s.setAbandon a).discard .active).abandonPending a

/-- The ACTIVE context, which has not fired, superseded by a new ARM (R75): discarded with AB_SUPERSEDED, its own JOIN
withdrawn in every phase where it is still QUEUED. -/
def State.supersede (s : State) : State :=
  match s.moves.active with
  | none => s
  | some c =>
    { s with
      moves := { s.moves with active := none, lastAbandon := some .superseded }
      link := joinTakenBack s.link c }

/-- The context in a place abandoned (R86). -/
def State.abandon (s : State) (p : Place) (a : AbandonReason) : State :=
  match p with
  | .active => s.abandonActive a
  | .pending => s.abandonPending a

/-- Every context discarded with AB_HALTED (R88). With none, the last abandon reason stands. -/
def State.haltContexts (s : State) : State :=
  if s.moves.none? then s else ((s.setAbandon .halted).discard .active).discard .pending

/-- A PENDING context lapses (R90): discarded with no abandon reason. -/
def State.lapse (s : State) : State := s.discard .pending

/-! ## Transitions of the axis state machine -/

/-- The surge unit at a transition from `old` into `new` (R65). -/
def State.surgeAt (s : State) (old new : NodeState) : State :=
  if old = .active ∧ new ≠ .active ∧ s.surge.status = .queued then
    { s with surge := { s.surge with status := .none }, link := s.link.withdrawSurge }
  else if old = .active ∧ new ≠ .active ∧ s.surge.status = .sent then
    { s with surge := { s.surge with status := .none } }
  else if new ≠ .active ∧ new ≠ .holdPark ∧ s.surge.status = .granted then
    { s with surge := { s.surge with status := .none, countdown := 0 } }
  else s

/-- The limiter at a transition into `new`: the zeroing of R24, and the setpoint taken at UNPARK (R42). -/
def limiterAt (l : Limiter) (actual : Option Int) (new : NodeState) : Limiter :=
  { S := if new = .brakeRelease then (actual.map trackedSetpoint).getD l.S else l.S
    vc := if new.still then 0 else l.vc
    vPrev := if new.still then 0 else l.vPrev }

/-- The axis state machine at a transition into `new`: brake command and drive enable of the table, counts and
flags at rest (R133). The start fault is kept only in NS_STARTING, which no transition but a start enters. -/
def Axis.entered (a : Axis) (new : NodeState) : Axis :=
  { a with nodeState := new, brakeReleased := new.brakeReleased, driveEnable := new.driveEnable,
           brakeCount := 0, settleCount := 0, unparkPending := false, releaseConfirmed := false,
           startFault := false }

/-- A transition into `new`, with what the other blocks do at it: the move engine discards every context when
NS_ACTIVE is left (R88), the surge unit acts (R65), the limiter zeroes its velocities (R24). -/
def State.enter (s : State) (new : NodeState) : State :=
  let old := s.axis.nodeState
  let s1 := if old = .active ∧ new ≠ .active then s.haltContexts else s
  let s2 := s1.surgeAt old new
  { s2 with limiter := limiterAt s2.limiter s2.drive.actual new, axis := s2.axis.entered new }

/-- The node enters NS_STOPPED when it stands in NS_STOPPING with v_c 0 (R40). -/
def State.settleStop (s : State) : State :=
  if s.axis.nodeState = .stopping ∧ s.limiter.vc = 0 then s.enter .stopped else s

/-- The change of state of a halt or a stopping cause (R141, R144): NS_STOPPING from a state that moves or may
move, and at once NS_STOPPED when v_c is already 0 (R40, R137). -/
def State.stopMotion (s : State) : State :=
  match s.axis.nodeState with
  | .active | .holdPark | .brakeRelease => (s.enter .stopping).settleStop
  | .starting | .configFault | .braked | .brakeEngage | .stopping | .stopped | .faulted => s

/-- A halt: a HALT frame arrival, or the ESTOP status becoming active (R141, R88). -/
def State.halt (s : State) : State :=
  let s1 := s.haltContexts
  ({ s1 with axis := { s1.axis with haltLatch := true } }).stopMotion

/-! ## Fault causes -/

/-- The precedence of R146 for a faulting cause. -/
def causeAfterFaulting (cause new : FaultCause) (owed : Nat) : FaultCause :=
  match cause with
  | .none | .stationClash => new
  | .linkStarved => if owed < Config.owedLimit then new else .linkStarved
  | .config => .config
  | .driveFault => .driveFault
  | .driveSilent => .driveSilent
  | .following => .following
  | .brakeTimeout => .brakeTimeout

/-- The cause latched. -/
def State.setCause (s : State) (c : FaultCause) : State := { s with axis := { s.axis with cause := c } }

/-- A faulting cause reported (R145, R134, R135): latched by R146; in NS_STARTING the start fault is set and
the state stays, in NS_CONFIG_FAULT nothing is latched, elsewhere the node enters NS_FAULTED. -/
def State.faulting (s : State) (c : FaultCause) : State :=
  let s1 := s.setCause (causeAfterFaulting s.axis.cause c s.link.owed)
  match s.axis.nodeState with
  | .configFault => s
  | .starting => { s1 with axis := { s1.axis with startFault := true } }
  | .faulted => s1
  | .braked | .brakeRelease | .active | .holdPark | .brakeEngage | .stopping | .stopped => s1.enter .faulted

/-- FC_LINK_STARVED reported (R144, R146; in NS_CONFIG_FAULT R135): it replaces any cause. -/
def State.starved (s : State) : State := (s.setCause .linkStarved).stopMotion

/-- FC_STATION_CLASH reported (R144, R146; not latched in NS_CONFIG_FAULT, R135). -/
def State.clash (s : State) : State :=
  if s.axis.nodeState = .configFault then s
  else ((if s.axis.cause = .none then s.setCause .stationClash else s)).stopMotion

end Sys2Proof.Machine
end

