-- ==== Sys2Proof/Machine/Blending.lean ====
section
/-! DEFINITION. The blend engine's four stages (01_the_blend.md), each computed from the state as it stands. -/

namespace Sys2Proof.Machine

/-- The magnitude of the stick demand at `m` steps beyond the deadband, out of `M` (R6, R7). -/
def stickMagnitude (curve : Curve) (vs m M : Int) : Int :=
  match curve with
  | .linear => m * vs / M
  | .square => m * m * vs / (M * M)

/-- The shaped demand of a deflection `d` (R5 to R7): 0 inside the deadband, else the sign of `d`. -/
def shapedDemand (p : Profile) (d : Int) : Int :=
  if mag d ≤ p.deadband then 0
  else signOf d * stickMagnitude p.curve p.vs (mag d - p.deadband) (2047 - p.deadband)

/-- Stage 1, the stick demand v_j (R5). -/
def State.stickDemand (s : State) : Int :=
  match s.peers.stick with
  | none => 0
  | some r =>
    if freshAge r.age ∧ r.enable ∧ s.axis.nodeState ≠ .holdPark then shapedDemand s.start.profile r.d else 0

/-- The numerator N of the weighted blend (R10). -/
def blendNumerator (vj : Int) (h : HandOver) : Int :=
  256 * (256 - (h.w : Int)) * vj + 256 * (h.w : Int) * h.vp + (h.w : Int) * (h.sTrim : Int) * vj

/-- Stage 3, the weighted blend v_blend (R10). -/
def weightedBlend (vj : Int) (h : HandOver) : Int := roundHalfAway (blendNumerator vj h) 65536

/-- The source velocity v_src (R14). -/
def State.sourceVelocity (s : State) : Int :=
  match s.start.profile.followSource with
  | none => 0
  | some n => ((s.freshEntry n).map (·.velocity)).getD 0

/-- Stage 4, the follow term v_f (R15). -/
def State.followTerm (s : State) : Int := roundHalfAway (s.sourceVelocity * s.start.profile.rf) 256

/-- The requested velocity v_req (R15), with the hand-over the move engine has made for this expiry (R3). -/
def State.requested (s : State) : Int := weightedBlend s.stickDemand s.moves.handOver + s.followTerm

/-- The follow accumulator after a period in which the blend is computed (R17). -/
def accumulated (F vf : Int) : Int := clampFine (F + vf)

end Sys2Proof.Machine
end

