-- ==== Sys2Proof/Machine/Limiting.lean ====
section
/-! DEFINITION. The limiter chain's stages, the integration with its guard, and the stopping ramp
(02_limits_and_the_setpoint.md). -/

namespace Sys2Proof.Machine

/-- The magnitude of `v` bounded to `b`, its sign kept. -/
def boundMag (b v : Int) : Int := clamp (-b) b v

/-- Stage 1, the interlock clamp (R26). -/
def interlockClamp (posActive negActive : Bool) (v : Int) : Int :=
  if posActive ∧ 0 < v then 0 else if negActive ∧ v < 0 then 0 else v

/-- The extension L in linear PU (R28). -/
def State.extension (s : State) (n : Station) : Int :=
  match s.freshEntry n with
  | some e => clamp 0 s.start.profile.lMax e.setpoint
  | none => s.start.profile.lMax

/-- The angular limit at the radius R0 + L (R29). -/
def tipLimit (p : Profile) (ext : Int) : Int := p.tTip * Config.kTip / (p.r0 + ext)

/-- Stage 3, the tip-speed limit (R28, R29): for SWING and LIFT with an extension source. -/
def State.tipBound (s : State) (v : Int) : Int :=
  match s.start.profile.extSource with
  | some n =>
    if s.start.profile.role.hasTip then boundMag (tipLimit s.start.profile (s.extension n)) v else v
  | none => v

/-- The bound of the braking envelope at a distance `d > 0` (R30). -/
def envelopeBound (aLow d : Int) : Int := min (isqrt (2 * aLow * d).toNat : Int) d

/-- Stage 4, the braking envelope (R30). -/
def envelope (p : Profile) (S v : Int) : Int :=
  if 0 < v then
    let d := p.pMax * 256 - S
    if d ≤ 0 then 0 else min v (envelopeBound p.aLow d)
  else if v < 0 then
    let d := S - p.pMin * 256
    if d ≤ 0 then 0 else -(min (-v) (envelopeBound p.aLow d))
  else 0

/-- The target after stages 1 to 4. -/
def State.target (s : State) (vReq : Int) : Int :=
  let p := s.start.profile
  let v1 := interlockClamp s.drive.lines.limitPos.active s.drive.lines.limitNeg.active vReq
  let v2 := boundMag p.vAxisMax v1
  envelope p s.limiter.S (s.tipBound v2)

/-- Two velocities have opposite signs. -/
def opposite (v w : Int) : Bool := decide ((0 < v ∧ w < 0) ∨ (v < 0 ∧ 0 < w))

/-- Stage 5, the acceleration limit (R32, R33). -/
def accelerate (v vPrev aInc aHigh : Int) : Int :=
  if opposite v vPrev then
    if aHigh < mag vPrev then signOf vPrev * (mag vPrev - aHigh) else signOf v * min (mag v) aInc
  else if mag vPrev ≤ mag v then
    signOf (if v = 0 then vPrev else v) * min (mag v) (mag vPrev + aInc)
  else signOf (if v = 0 then vPrev else v) * max (mag v) (mag vPrev - aHigh)

/-- The increase allowance A_inc: A_high under a grant, A_low otherwise (R34). -/
def State.increase (s : State) : Int :=
  if s.surge.granted then s.start.profile.aHigh else s.start.profile.aLow

/-- The requested increase (R34). -/
def requestedIncrease (v vPrev : Int) : Int :=
  if opposite v vPrev then mag v else mag v - mag vPrev

/-- The surge unit takes a request for a claim (R58): a window with room, and an empty SURGE lane
(log entry 10). -/
def State.claimTaken (s : State) : State :=
  if s.surge.status = .none ∧ s.surge.window.length < Config.surgeSlots ∧ s.link.room .surge then
    { (s.hand .surge (plain .surge)) with surge := { s.surge with status := .queued } }
  else s

/-- The limiter asks for a claim in NS_ACTIVE when the requested increase exceeds A_low and the surge unit
holds neither a grant nor a pending claim (R34). -/
def State.claimAsked (s : State) (v vPrev : Int) : State :=
  if s.axis.nodeState = .active ∧ s.start.profile.aLow < requestedIncrease v vPrev then s.claimTaken else s

/-- The limit guard against one soft limit from below it: P_max (R37). -/
def guardMax (lim old new : Int) : Int :=
  if old ≤ lim then (if lim < new then lim else new) else (if old < new then old else new)

/-- The limit guard against P_min (R37). -/
def guardMin (lim old new : Int) : Int :=
  if lim ≤ old then (if new < lim then lim else new) else (if new < old then old else new)

/-- Stage 6: the new setpoint, clamped and guarded (R36, R37). -/
def integrated (p : Profile) (S vc : Int) : Int :=
  guardMin (p.pMin * 256) S (guardMax (p.pMax * 256) S (clampFine (S + vc)))

/-- The stopping ramp (R40). -/
def stopRamp (aStop vPrev : Int) : Int :=
  if mag vPrev ≤ aStop then 0 else signOf vPrev * (mag vPrev - aStop)

/-- The operation of NS_ACTIVE and NS_HOLD_PARK: stages 1 to 6 on v_req, F and S written together (R17, R20,
R36). -/
def State.limiterChain (s : State) : State :=
  let v := s.target s.requested
  let vPrev := s.limiter.vc
  let vc := accelerate v vPrev s.increase s.start.profile.aHigh
  let s1 := s.claimAsked v vPrev
  { s1 with
    limiter := { S := integrated s.start.profile s.limiter.S vc, vc := vc, vPrev := vPrev }
    blend := { F := accumulated s.blend.F s.followTerm } }

/-- The operation of NS_STOPPING (R40). -/
def State.stopOperation (s : State) : State :=
  let vc := stopRamp s.start.profile.aStop s.limiter.vc
  { s with limiter := { S := integrated s.start.profile s.limiter.S vc, vc := vc, vPrev := s.limiter.vc } }

/-- Setpoint tracking (R41). -/
def State.trackOperation (s : State) : State :=
  { s with limiter := { S := (s.drive.actual.map trackedSetpoint).getD s.limiter.S, vc := 0, vPrev := 0 } }

/-- Setpoint holding (R42). -/
def State.holdOperation (s : State) : State :=
  { s with limiter := { S := s.limiter.S, vc := 0, vPrev := 0 } }

/-- The setpoint operation by node state (R23), up to its hand-over. -/
def State.operate (s : State) : State :=
  match s.axis.nodeState with
  | .active | .holdPark => s.limiterChain
  | .stopping => s.stopOperation
  | .starting | .configFault | .braked | .brakeEngage | .faulted => s.trackOperation
  | .brakeRelease | .stopped => s.holdOperation

end Sys2Proof.Machine
end

