-- ==== Sys2Proof/Machine/HandingOver.lean ====
section
/-! DEFINITION. The hand-over that ends every setpoint operation (R39): the STATE frame with its placement
and the owed count (R168, R169), the judgement of the held exchange (R153, R154), and the new exchange
(R151). -/

namespace Sys2Proof.Machine

/-- The move fields of a STATE frame (R71). -/
def Moves.reportOf (m : Moves) : Option MoveReport × Option StationSet × Option Nat :=
  match m.active with
  | some c =>
    (some (.move c.moveId c.phase), some c.parts, if c.phase.fired then some c.t else none)
  | none => (m.lastAbandon.map .abandoned, none, none)

/-- The STATE frame's fields as they stand; the owed count is set at the placement (R39, R168). -/
def State.stateReport (s : State) : StateReport :=
  let m := s.moves.reportOf
  { role := s.reportedRole, nodeState := s.axis.nodeState, cause := s.axis.cause, setpoint := toPU s.limiter.S,
    velocity := s.limiter.vc, ownPos := toPU s.ownPos, report := m.1, parts := m.2.1, timeline := m.2.2,
    surgeGranted := s.surge.granted, stickLost := s.stickLost, owed := s.link.owed, lastResult := s.link.echo }

/-- One more owed frame, saturating at 9 (R168). -/
def owedMore (owed : Nat) : Nat := min (owed + 1) Config.owedLimit

/-- The STATE frame placed (R168): an unsent one is replaced and counted. -/
def Link.placeState (l : Link) (r : StateReport) : Link :=
  let owed := if l.stateLane.isEmpty then l.owed else owedMore l.owed
  { l with stateLane := [plain (.state { r with owed := owed })], owed := owed }

/-- The owed count rose from 8 to 9: the node is starved (R169). -/
def starvedBetween (before after : Nat) : Bool :=
  decide (before < Config.owedLimit ∧ after = Config.owedLimit)

/-- The silent count after judging an exchange (R153). -/
def judgedSilent (ex : Option Exchange) (count : Nat) : Nat :=
  match ex with
  | none => count
  | some e =>
    if !e.enable then 0
    else match e.outcome with
      | .answered _ => 0
      | .awaiting | .notReady => min (count + 1) Config.driveSilent

/-- The following error of an answered exchange exceeds the limit (R154). -/
def overLimit (feLimit setpoint position : Int) : Bool :=
  decide (256 * feLimit < mag (setpoint - 256 * position))

/-- The following-error count after judging an exchange (R154). -/
def judgedFollowing (feLimit : Int) (ex : Option Exchange) (count : Nat) : Nat :=
  match ex with
  | none => count
  | some e =>
    if !e.enable || e.tracking then 0
    else match e.outcome with
      | .answered p => if overLimit feLimit e.setpoint p then min (count + 1) Config.feCount else 0
      | .awaiting | .notReady => count

/-- A count became 3 having stood at 2 (R153, R154). -/
def becameThree (before after : Nat) : Bool := decide (before = 2 ∧ after = 3)

/-- The number of the next exchange (R151). -/
def nextNumber (ex : Option Exchange) : Byte :=
  match ex with
  | none => 0
  | some e => e.number + 1

/-- The new exchange of a hand-over (R151): setpoint, feed-forward and enable as they stand, the tracking mark
from the state that decided the operation. -/
def State.newExchange (s : State) (decided : NodeState) : Exchange :=
  { number := nextNumber s.drive.exchange, setpoint := s.limiter.S, feedForward := s.limiter.vc,
    enable := s.axis.driveEnable, tracking := decided.tracks, outcome := .awaiting }

/-- Both hand-overs made, no report taken yet. -/
def State.handedOver (s : State) (decided : NodeState) : State :=
  { s with
    drive := { s.drive with
      exchange := some (s.newExchange decided)
      silent := judgedSilent s.drive.exchange s.drive.silent
      following := judgedFollowing s.start.profile.feLimit s.drive.exchange s.drive.following }
    link := s.link.placeState s.stateReport }

/-- The reports of a hand-over, taken after both hand-overs are made (R151): FC_DRIVE_SILENT, FC_FOLLOWING
(R154), FC_LINK_STARVED (R169). -/
def State.reportsTaken (s before : State) : State :=
  let s1 := if becameThree before.drive.silent s.drive.silent then s.faulting .driveSilent else s
  let s2 := if becameThree before.drive.following s.drive.following then s1.faulting .following else s1
  if starvedBetween before.link.owed s.link.owed then s2.starved else s2

/-- The hand-over, its reports, and NS_STOPPED when v_c is 0 after an operation of NS_STOPPING (R40). -/
def State.handOverAll (s : State) (decided : NodeState) : State :=
  ((s.handedOver decided).reportsTaken s).settleStop

/-- The whole setpoint operation of an expiry (R23, R39). -/
def State.setpointOperation (s : State) : State :=
  s.operate.handOverAll s.axis.nodeState

end Sys2Proof.Machine
end

