-- ==== Sys2Proof/Machine/Gathering.lean ====
section
/-! DEFINITION. The move engine before the fire (05_gathering_and_cueing_a_joint_move.md): contexts made,
countdowns, the gather expiry, the fire, and the notices of the peer table. -/

namespace Sys2Proof.Machine

/-- A new JOINT context in MP_GATHER (R76). -/
def newJoint (serial : Nat) (moveId : Byte) (slot : Fin 48) (preset : Preset) (own : OwnJoin) : Context :=
  { moveId := moveId, kind := .joint, slot := slot, preset := preset, parts := 0, ownJoin := some own,
    phase := .gather, gatherCd := Config.gatherWindow, armedCd := 0, postCd := 0, due := false,
    releaseAtEnd := false, t := 0, k := 0, r := 0, lam := 0, w := 0, fadeIn := 0, wFloor := 0, fadeOut := 0,
    w0 := 0, dwell := 0, gap := 0, deferred := false, serial := serial }

/-- The fire of the ACTIVE context (R84), with the playback fields of R92. -/
def Context.fire (c : Context) : Context :=
  { c with phase := .running, due := false, t := 0, k := 0, r := 256, lam := 256, fadeIn := 0, wFloor := 0,
           fadeOut := 0, w0 := 0, dwell := 0, gap := 0, deferred := false }

/-- A context returned from MP_POSTED to MP_ARMED with its armed countdown as it was kept (R82, R83). -/
def Context.rearm (c : Context) : Context := { c with phase := .armed, postCd := 0, due := false }

/-- A PENDING context that is no longer due beside an ACTIVE context in MP_FINISHED lapses (R90). -/
def State.lapseIfStranded (s : State) : State :=
  match s.moves.active, s.moves.pending with
  | some a, some p => if a.phase = .finished ∧ !p.due then s.lapse else s
  | _, _ => s

/-- The gather expiry of the context in a place (R78, and for a PENDING one R89). R78 makes the phase MP_ARMED before
R89 compares the sets, so a PENDING context abandoned AB_SPLICE_SET is past MP_GATHER and leaves an own JOIN that is
still QUEUED in its lane: the model's choice beside R80 and the table of R86 (log entry 31). -/
def State.gatherExpiry (s : State) (p : Place) (c : Context) : State :=
  if c.parts.has s.start.station then
    let s1 := s.putContext p (some { c with phase := .armed, gatherCd := 0, armedCd := Config.armExpiry })
    match p with
    | .active => s1
    | .pending =>
      if s.moves.active.any (fun a => a.parts == c.parts) then s1 else s1.abandonPending .spliceSet
  else
    match c.ownJoin with
    | some .sent => (s.abandon p .joinLate).handCancel c.moveId
    | some .queued | some .dropped | some .heard | none => s.abandon p .joinLate

/-- The countdowns of the context in a place at a period expiry (R78, R81, R84). -/
def State.countPlace (s : State) (p : Place) : State :=
  match s.moves.at p with
  | none => s
  | some c =>
    match c.phase with
    | .gather =>
      if c.gatherCd ≤ 1 then s.gatherExpiry p c
      else s.putContext p (some { c with gatherCd := c.gatherCd - 1 })
    | .armed =>
      if c.armedCd ≤ 1 then s.abandon p .armExpired
      else s.putContext p (some { c with armedCd := c.armedCd - 1 })
    | .posted =>
      if c.postCd ≠ 0 then s.putContext p (some { c with postCd := c.postCd - 1 })
      else match p with
        | .active => s.putContext p (some c.fire)
        | .pending => s.putContext p (some { c with due := true })
    | .running | .holding | .suspended | .resuming | .finished | .releasing => s

/-- The countdowns of an expiry, the ACTIVE place first. -/
def State.countdowns (s : State) : State := (s.countPlace .active).countPlace .pending

/-- A stale notice at the context in MP_POSTED of a place (R83). -/
def State.stalePosted (s : State) (p : Place) (n : Station) : State :=
  match s.moves.at p with
  | none => s
  | some c =>
    if c.phase = .posted ∧ c.parts.has n then
      let s1 := s.putContext p (some c.rearm)
      match p with
      | .active => s1.handHold c.moveId
      | .pending => s1.lapseIfStranded
    else s

/-- A stale notice at an ACTIVE JOINT context that has fired: the peer-lost hold (R104). -/
def State.staleFired (s : State) (n : Station) : State :=
  match s.moves.active with
  | none => s
  | some c =>
    if c.kind = .joint ∧ c.parts.has n ∧ (c.phase = .running ∨ c.phase = .resuming) then
      (s.putContext .active (some { c with phase := .holding, deferred := false })).handHold c.moveId
    else s

/-- The move engine takes a stale notice (R83, R104). -/
def State.staleNotice (s : State) (n : Station) : State :=
  ((s.staleFired n).stalePosted .active n).stalePosted .pending n

/-- An entry shows the context's move settled on another participant set (R85). -/
def splits (c : Context) (e : PeerEntry) : Bool :=
  match e.report, e.parts with
  | some (.move id ph), some m => id == c.moveId && ph != .gather && m != c.parts
  | _, _ => false

/-- The set check of the context in a place on an update notice (R85). -/
def State.setCheck (s : State) (p : Place) (n : Station) : State :=
  match s.moves.at p, s.entry n with
  | some c, some e =>
    if c.parts.has n ∧ n ≠ s.start.station ∧ c.phase ≠ .gather ∧ c.phase ≠ .releasing ∧ splits c e then
      (s.abandon p .moveSplit).handCancel c.moveId
    else s
  | _, _ => s

/-- The move engine takes an update notice (R85). -/
def State.updateNotice (s : State) (n : Station) : State := (s.setCheck .active n).setCheck .pending n

end Sys2Proof.Machine
end

