-- ==== Sys2Proof/Machine/Playing.lean ====
section
/-! DEFINITION. The playback step (06_playback.md), part by part in the order of R92. -/

namespace Sys2Proof

/-- q of the segment offset (R95). -/
def segQ (tau len : Nat) : Nat := tau * 65536 / len

/-- e of the segment offset (R95). -/
def segE (e : Easing) (q : Nat) : Nat :=
  match e with
  | .linear => q
  | .smooth => (3 * q * q * 65536 - 2 * q * q * q) / 2 ^ 32

/-- The segment offset: the change of own position that segment `k` has made by the local timeline `tau` (R95). -/
def Preset.offset (p : Preset) (k tau : Nat) : Int :=
  Machine.truncDiv (p.delta k * (segE (p.easingAt k) (segQ tau (p.segLen k)) : Int)) 65536

/-- The change of own position from keyframe 0 to the timeline `t` in segment `k`: whole segments before it and
the offset within it. -/
def Preset.path (p : Preset) (k t : Nat) : Int :=
  (p.posAt k - p.posAt 0) + p.offset k (t - p.bound k)

/-- The preset contribution of an advance from `t` in segment `k` to `t'` in segment `k'` (R96): the three cases
of R96 are this one difference, since a segment ends on its full change. -/
def Preset.contribution (p : Preset) (k t k' t' : Nat) : Int := p.path k' t' - p.path k t

namespace Machine

/-! ## Parts 1 to 3 -/

/-- The splice is taken at this step (R110). -/
def Moves.splices (m : Moves) : Bool :=
  match m.active with
  | some c => m.pendingDue && c.preset.onBoundary c.t && c.phase != .suspended
  | none => false

/-- The weight a spliced context starts from: the carried weight, or 256 when its F_in is 0 (R98, R110). -/
def spliceWeight (fIn carried : Nat) : Nat := if fIn = 0 then 256 else carried

/-- The PENDING context as it fires at the splice in place of `old` (R110; log entry 14). -/
def Context.spliced (old new : Context) : Context :=
  let holds := old.phase = .holding ∨ old.phase = .resuming
  { new with
    phase := if holds then old.phase else .running
    due := false, t := 0, k := 0
    r := if holds then old.r else 256
    lam := 256
    w := spliceWeight new.preset.fIn old.w
    fadeIn := 0, wFloor := old.w, fadeOut := 0, w0 := 0, dwell := 0
    gap := if holds then old.gap else 0
    deferred := if holds then old.deferred else false }

/-- Part 1: the splice (R109, R110). -/
def State.splicePart (s : State) : State :=
  if s.moves.splices then
    match s.moves.active, s.moves.pending with
    | some old, some new =>
      { s with moves := { s.moves with active := some (old.spliced new), pending := none } }
    | _, _ => s
  else s

/-- Part 2: the resume gap count, and a deferred hold falling due (R103). -/
def Context.gapPart (c : Context) : Context :=
  if c.gap = 0 then c
  else if c.gap = 1 ∧ c.deferred then
    { c with gap := 0, deferred := false,
             phase := if c.phase = .running ∨ c.phase = .resuming then .holding else c.phase }
  else { c with gap := c.gap - 1 }

/-- Part 3: the timeline rate (R102). R102 does not say what a step down from 0 or a step up from 256 gives, which a HOLD
right after a RESUME, or a RESUME right after a HOLD, asks for: the model keeps the rate at its end and changes the phase
at that step (log entry 13). -/
def Context.ratePart (c : Context) : Context :=
  match c.phase with
  | .holding =>
    { c with r := c.r - Config.holdStep, phase := if c.r ≤ Config.holdStep then .suspended else .holding }
  | .resuming =>
    { c with r := min 256 (c.r + Config.holdStep),
             phase := if 256 ≤ c.r + Config.holdStep then .running else .resuming }
  | .gather | .armed | .posted | .running | .suspended | .finished | .releasing => c

/-! ## Part 4: levelling and drift -/

/-- The timeline estimate of a participant (R105): its FRESH entry shows this move running and carries a
timeline. -/
def State.estimate (s : State) (c : Context) (n : Station) : Option Nat :=
  match s.freshEntry n with
  | some e =>
    match e.report, e.timeline with
    | some (.move id .running), some t => if id = c.moveId then some (t + 256 * e.age) else none
    | _, _ => none
  | none => none

/-- The other participants of a context. -/
def State.others (s : State) (c : Context) : List Station :=
  allStations.filter (fun n => c.parts.has n && n != s.start.station)

/-- The estimates of the other participants, when the levelling condition holds (R105). -/
def State.estimates (s : State) (c : Context) : Option (List Nat) :=
  if c.kind = .joint ∧ c.phase = .running then (s.others c).mapM (s.estimate c) else none

/-- The levelling factor (R105): 252 when ahead of the slowest estimate by more than a period. -/
def levelFactor (t : Nat) (ests : Option (List Nat)) : Nat :=
  match ests with
  | some es => if 256 < t - es.foldl min t then Config.levelRate else 256
  | none => 256

/-- The timelines have drifted apart (R106). -/
def drifted (t : Nat) (ests : Option (List Nat)) : Bool :=
  match ests with
  | some es => es.any (fun e => decide (Config.driftLimit < (t - e) + (e - t)))
  | none => false

/-- Part 4 on the ACTIVE context (R105, R106). -/
def State.levelPart (s : State) : State :=
  match s.moves.active with
  | none => s
  | some c =>
    let ests := s.estimates c
    let s1 := s.putContext .active (some { c with lam := levelFactor c.t ests })
    if drifted c.t ests then (s1.abandonActive .drift).handCancel c.moveId else s1

/-! ## Part 5: the advance -/

/-- The timeline after the advance (R94), clamped at the next boundary while the PENDING context is due
(R109). -/
def Context.advanced (c : Context) (pendingDue : Bool) : Nat :=
  let t' := min (c.t + c.r * c.lam / 256) c.preset.total
  if pendingDue then min t' (c.preset.bound (c.k + 1)) else t'

/-- The context advances in this phase (R94). -/
def Phase.advances : Phase → Bool
  | .running | .holding | .resuming => true
  | .gather | .armed | .posted | .suspended | .finished | .releasing => false

/-- The context after its advance: timeline and segment index (R94), and the finish at the total (R97). -/
def Context.moved (c : Context) (pendingDue : Bool) : Context :=
  let t' := c.advanced pendingDue
  let c1 := { c with t := t', k := c.preset.segIndex t' }
  if t' = c.preset.total then
    { c1 with phase := .finished, dwell := c.preset.dwell, deferred := false, gap := 0 }
  else c1

/-- The step's preset contribution (R96). -/
def Context.stepContribution (c : Context) (pendingDue : Bool) : Int :=
  let c' := c.moved pendingDue
  c.preset.contribution c.k c.t c'.k c'.t

/-- Part 5 (R94 to R97, R109): the state after it and the step's v_p. A PENDING context not due at the finish
lapses (R90, R97). -/
def State.advancePart (s : State) : State × Int :=
  match s.moves.active with
  | none => (s, 0)
  | some c =>
    if Phase.advances c.phase then
      let s1 := s.putContext .active (some (c.moved s.moves.pendingDue))
      (s1.lapseIfStranded, c.stepContribution s.moves.pendingDue)
    else (s, 0)

/-! ## Parts 6 and 7 -/

/-- Part 6: dwell and release, for a context already in MP_FINISHED before the step (R107). -/
def Context.dwellPart (c : Context) : Context :=
  let c1 := { c with dwell := c.dwell - 1 }
  if (c.preset.autoRelease ∨ c.releaseAtEnd) ∧ c1.dwell = 0 ∧ c.w = 256 then c1.release else c1

/-- The fade-in weight at count `n` (R98). -/
def fadeInWeight (fIn wFloor n : Nat) : Nat :=
  max wFloor (if fIn = 0 then 256 else 256 * n / fIn)

/-- The fade-out weight at count `n` (R99). -/
def fadeOutWeight (fOut w0 n : Nat) : Nat := if fOut = 0 then 0 else w0 * (fOut - n) / fOut

/-- Part 7: the weight (R98, R99). -/
def Context.weightPart (c : Context) : Context :=
  match c.phase with
  | .running | .finished =>
    let n := min (c.fadeIn + 1) c.preset.fIn
    { c with fadeIn := n, w := fadeInWeight c.preset.fIn c.wFloor n }
  | .releasing =>
    let n := min (c.fadeOut + 1) c.preset.fOut
    { c with fadeOut := n, w := fadeOutWeight c.preset.fOut c.w0 n }
  | .gather | .armed | .posted | .holding | .suspended | .resuming => c

/-- Parts 6 and 7 on the ACTIVE context, with the discard at the end of a fade-out (R99). -/
def State.weightAndRelease (s : State) (wasFinished : Bool) : State :=
  match s.moves.active with
  | none => s
  | some c =>
    let c1 := if wasFinished then c.dwellPart else c
    let c2 := c1.weightPart
    let s1 := s.putContext .active (some c2)
    if c2.phase = .releasing ∧ c2.w = 0 then s1.discard .active else s1

/-! ## Part 8 and the whole step -/

/-- The hand-over for the ACTIVE context after the step (R3, R114). -/
def handOverOf (active : Option Context) (vp : Int) : HandOver :=
  match active with
  | none => .zero
  | some c =>
    if c.phase.fired then { w := c.w, sTrim := c.preset.sTrim, vp := if c.phase = .releasing then 0 else vp }
    else { w := 0, sTrim := c.preset.sTrim, vp := 0 }

/-- The hand-over made. -/
def State.giveHandOver (s : State) (vp : Int) : State :=
  { s with moves := { s.moves with handOver := handOverOf s.moves.active vp } }

/-- The playback step (R92). A context that has not fired takes none and hands over w = 0 and v_p = 0. -/
def State.playbackStep (s : State) : State :=
  if s.moves.active.any (·.phase.fired) then
    let s1 := s.splicePart
    let s2 := (s1.mapActive Context.gapPart).mapActive Context.ratePart
    let s3 := s2.levelPart
    let wasFinished := s3.moves.active.any (·.phase == .finished)
    let a := s3.advancePart
    (a.1.weightAndRelease wasFinished).giveHandOver a.2
  else s.giveHandOver 0

/-- The move engine's reaction to a period expiry (R92): the countdowns, then the playback step. -/
def State.moveReaction (s : State) : State := s.countdowns.playbackStep

end Machine

end Sys2Proof
end

