-- ==== Sys2Proof/Machine/Reacting.lean ====
section
/-! DEFINITION. The other blocks' own reactions to a period expiry: peer table (3.1, 3.3), surge unit (4.4),
axis state machine (8.2, 8.3), interlock lines (9.3), preset store (7.7); and the expiry as a whole, in the
order its operand gives. -/

namespace Sys2Proof.Machine

/-! ## Peer table -/

/-- An age one period on, saturating at 255 (R47, R54). -/
def older (age : Nat) : Nat := min (age + 1) 255

/-- One station's entry ages, and gives a stale notice when its age becomes 9 (R47). -/
def State.agePeer (s : State) (n : Station) : State :=
  match s.entry n with
  | none => s
  | some e =>
    let s1 := { s with peers := { s.peers with
      entries := s.peers.entries.set n.val (some { e with age := older e.age }) } }
    if older e.age = Config.staleAge ∧ e.age < Config.staleAge then s1.staleNotice n else s1

/-- The stick record ages (R54). -/
def State.ageStick (s : State) : State :=
  { s with peers := { s.peers with stick := s.peers.stick.map (fun r => { r with age := older r.age }) } }

/-- The peer table's reaction (R47, R54), stations in rising order (log entry 25). -/
def State.peerReaction (s : State) : State := (allStations.foldl State.agePeer s).ageStick

/-! ## Surge unit -/

/-- The window one period on: lives lowered, entries at 0 removed (R62). -/
def agedWindow (w : List Claim) : List Claim :=
  (w.map (fun c => { c with life := c.life - 1 })).filter (fun c => c.life != 0)

/-- The grant countdown and a lost loopback (R63, R64). -/
def Surge.statusStep (g : Surge) : Surge :=
  match g.status with
  | .granted =>
    if g.countdown ≤ 1 then { g with countdown := 0, status := .none }
    else { g with countdown := g.countdown - 1 }
  | .sent => { g with status := .none }
  | .none | .queued => g

/-- The surge unit's reaction (R62 to R64). -/
def State.surgeReaction (s : State) : State :=
  { s with surge := Surge.statusStep { s.surge with window := agedWindow s.surge.window } }

/-! ## Axis state machine -/

/-- The brake count rises, and at the profile's brake timeout FC_BRAKE_TIMEOUT is taken (R137, R140). -/
def State.brakeWait (s : State) : State :=
  if s.start.profile.brakeTimeout ≤ s.axis.brakeCount + 1 then s.faulting .brakeTimeout
  else { s with axis := { s.axis with brakeCount := s.axis.brakeCount + 1 } }

/-- An expiry in NS_BRAKE_RELEASE (R137). -/
def State.releaseStep (s : State) : State :=
  if s.axis.releaseConfirmed then
    if Config.brakeSettle ≤ s.axis.settleCount + 1 then s.enter .active
    else { s with axis := { s.axis with settleCount := s.axis.settleCount + 1 } }
  else if s.drive.lines.brakeFb.active then { s with axis := { s.axis with releaseConfirmed := true } }
  else s.brakeWait

/-- An expiry in NS_BRAKE_ENGAGE (R140). -/
def State.engageStep (s : State) : State :=
  if s.drive.lines.brakeFb.active then s.brakeWait else s.enter .braked

/-- The axis state machine's reaction (R137, R138, R140). -/
def State.axisReaction (s : State) : State :=
  match s.axis.nodeState with
  | .brakeRelease => s.releaseStep
  | .brakeEngage => s.engageStep
  | .holdPark => if s.axis.unparkPending then s.enter .active else s
  | .starting | .configFault | .braked | .active | .stopping | .stopped | .faulted => s

/-! ## Interlock lines -/

/-- A line after a sample: the two-sample filter (R157). -/
def LineState.take (l : LineState) (x : Bool) : LineState :=
  { sample := some x, active := if l.sample = some x then x else l.active }

/-- A sampled line, or one left as it stands. -/
def lineStep (sampled : Bool) (highActive level : Bool) (l : LineState) : LineState :=
  if sampled then l.take (level == highActive) else l

/-- The five lines after an expiry's sampling (R157, R159): by the profile's polarities and masks when it is
accepted; ESTOP alone, with the level of an open circuit taken as active, when it is refused. -/
def State.sampledLines (s : State) (levels : Lines Bool) : Lines LineState :=
  let p := s.start.profile
  let l := s.drive.lines
  if s.start.accepted then
    { estop := lineStep (!p.mask.estop) p.polarity.estop levels.estop l.estop
      limitPos := lineStep (!p.mask.limitPos) p.polarity.limitPos levels.limitPos l.limitPos
      limitNeg := lineStep (!p.mask.limitNeg) p.polarity.limitNeg levels.limitNeg l.limitNeg
      driveFault := lineStep (!p.mask.driveFault) p.polarity.driveFault levels.driveFault l.driveFault
      brakeFb := lineStep (!p.mask.brakeFb) p.polarity.brakeFb levels.brakeFb l.brakeFb }
  else { l with estop := lineStep true Config.openCircuitLevel levels.estop l.estop }

/-- The ESTOP status becomes active: a halt, and a HALT frame with cause ESTOP_LINE for the HALT lane (R141,
R142). -/
def State.estopPressed (s : State) : State := (s.hand .halt (plain (.halt .estopLine))).halt

/-- The line sampling of an expiry and the line changes it makes (R157, R158; log entry 24). -/
def State.lineReaction (s : State) (levels : Lines Bool) : State :=
  let new := s.sampledLines levels
  let s1 := { s with drive := { s.drive with lines := new } }
  let s2 := if new.estop.active ∧ !s.drive.lines.estop.active then s1.estopPressed else s1
  if new.driveFault.active ∧ !s.drive.lines.driveFault.active then s2.faulting .driveFault else s2

/-! ## Preset store -/

/-- The region once an operation's step 4 is done (R120): the record and its check, and nothing beyond them (log entry
34). -/
def StoreOp.finished (op : StoreOp) (r : Region) : Region :=
  match op with
  | .writing _ p => { marker := .complete, bytes := p.checkedBytes }
  | .erasing _ => .blank
  | .idle | .checking _ | .locked => r

/-- The operation record of an operation in flight. -/
def StoreOp.record? : StoreOp → Option OpRecord
  | .writing op _ => some op
  | .erasing op => some op
  | .idle | .checking _ | .locked => none

/-- The regions when an operation in flight is cut short or cancelled: its slot's region keeps the incomplete
marker, unless the memory had done step 4 (R120, R126, R132; log entry 18). The bytes behind an incomplete marker are
those that stood before the operation: the model's choice, since R120 gives them none (log entry 33). -/
def Store.cutRegions (st : Store) (stepFourDone : Bool) : Vector Region 48 :=
  match st.op.record? with
  | some op => if stepFourDone then st.regions.set op.slot (st.op.finished st.regions[op.slot]) else st.regions
  | none => st.regions

/-- A store operation fails (R126): the slot INVALID, the store LOCKED, the echo of the operation's tag. The region
keeps the incomplete marker and its earlier bytes (log entries 18 and 33). -/
def State.storeFails (s : State) (op : OpRecord) : State :=
  { s with
    store := { s.store with slots := s.store.slots.set op.slot .invalid, op := .locked }
    link := s.link.answer op.tag .storeFailed }

/-- The elapsed count of an operation in flight set (R126). -/
def StoreOp.withElapsed (op : StoreOp) (n : Nat) : StoreOp :=
  match op with
  | .writing r p => .writing { r with elapsed := n } p
  | .erasing r => .erasing { r with elapsed := n }
  | .idle => .idle
  | .checking k => .checking k
  | .locked => .locked

/-- The preset store's reaction (R126): the elapsed count, and at 250 the cancel and the failure. -/
def State.storeReaction (s : State) (stepFourDone : Bool) : State :=
  match s.store.op.record? with
  | none => s
  | some op =>
    if Config.commitLimit ≤ op.elapsed + 1 then
      ({ s with store := { s.store with regions := s.store.cutRegions stepFourDone } }).storeFails op
    else { s with store := { s.store with op := s.store.op.withElapsed (op.elapsed + 1) } }

/-! ## The whole expiry -/

/-- One block's reaction. -/
def State.react (s : State) (input : ExpiryInput) : Block → State
  | .peers => s.peerReaction
  | .moves => s.moveReaction
  | .surge => s.surgeReaction
  | .axis => s.axisReaction
  | .lines => s.lineReaction input.levels
  | .store => s.storeReaction input.stepFourDone
  | .setpoint => s.setpointOperation

/-- The first mention of each block, in order. -/
def firstMentions : List Block → List Block → List Block
  | [], seen => seen
  | b :: bs, seen => firstMentions bs (if seen.contains b then seen else seen ++ [b])

/-- The order an operand stands for (log entry 2): each block once, those it does not name at the end in the
order of `Block.all`, and the move engine just before the setpoint operation where it would come after. -/
def schedule (order : List Block) : List Block :=
  let all := firstMentions (order ++ Block.all) []
  if all.idxOf .moves < all.idxOf .setpoint then all
  else (all.filter (· != .moves)).flatMap (fun b => if b = .setpoint then [.moves, .setpoint] else [b])

/-- A period expiry: every block reacts once (00_scope.md, "Time and events"; R23). -/
def State.expiry (s : State) (input : ExpiryInput) : State :=
  (schedule input.order).foldl (fun t b => t.react input b) s

end Sys2Proof.Machine
end

