-- ==== Sys2Proof/Machine/Operands.lean ====
section
/-! DEFINITION. How commands reach the node: an event that comes about only as the state stands, a frame's
arrival with its receipt tests and loopback mark (R161, R162, R173), and a SERVICE frame's addressing (R164). -/

namespace Sys2Proof.Machine

/-- The outcome of every meaning: the next state. -/
abbrev Result := Host.Outcome State Fault Refusal

/-- An event takes place only where it can come about; elsewhere the command changes nothing (log entries 1
and 5). -/
def whenAble (able : Bool) (s t : State) : Result := .next (if able then t else s)

/-- The link interface marks the arriving frame as the node's own loopback (R161): it came back from the node's
own transmission, and it is the frame that departed. -/
def State.isLoopback (s : State) (rx : Rx) (f : Frame) : Bool :=
  rx.own && rx.src == s.start.station && s.link.departed == some f

/-- No departed frame's loopback is awaited any more. -/
def State.loopbackTaken (s : State) : State := { s with link := { s.link with departed := none } }

/-- A frame's arrival (R162, R164, R173): taken when the node runs and every field lies within its encoding,
else discarded with no change. `act` gets the loopback mark and the state. -/
def State.arrive (s : State) (rx : Rx) (f : Frame) (act : Bool → State → State) : Result :=
  whenAble (s.live && f.within) s (act (s.isLoopback rx f) s.loopbackTaken)

/-- A SERVICE frame's arrival (R164): acted on when its target is this node's station, from any source. -/
def State.service (s : State) (h : SvcHead) (op : Operation) (act : State → State) : Result :=
  s.arrive h.rx (.service h.tag h.target op) (fun _ t => if h.target = t.start.station then act t else t)

/-- The first of a command's tests that fails refuses it with its code; a command that passes them all is
answered RC_OK and acts (R73, R112, R121, R123, R129, R130, R136, R139). -/
def State.tested (s : State) (tag : Byte) (tests : List (Bool × ResultCode)) (act : State → State) : State :=
  match tests.find? (fun t => !t.1) with
  | some t => s.answer tag t.2
  | none => (act s).answer tag .ok

end Sys2Proof.Machine
end

