-- ==== Sys2Proof/Machine/Cueing.lean ====
section
/-! DEFINITION. The cue frames at the move engine (R72 to R77, R80, R82, R87, R100, R101, R108). -/

namespace Sys2Proof.Machine

/-! ## ARM -/

/-- The outcome of the placement test (R74). -/
inductive Placement where
  | asActive
  | superseding
  | asPending
  | refuse (rc : ResultCode)
deriving DecidableEq, Repr

/-- The placement test (R74). -/
def Moves.place (m : Moves) (moveId : Byte) (splice : Bool) : Placement :=
  match m.active, m.pending with
  | none, none => .asActive
  | some a, none =>
    if !a.phase.fired then .superseding
    else if !a.phase.playing then .refuse .busy
    else if !splice then .refuse .busy
    else if a.moveId = moveId then .refuse .busy
    else if a.preset.autoRelease then .refuse .spliceDenied
    else .asPending
  | _, some _ => .refuse .busy

/-- The slot tests 3 and 4 of R73 and of R112: the slot's record, or the code that refuses it. -/
def Slot.readable : Slot → Except ResultCode Preset
  | .held p => .ok p
  | .empty => .error .slotEmpty
  | .invalid => .error .slotInvalid
  | .writing => .error .slotBusy
  | .erasing => .error .slotBusy

/-- The at-start test (R73, test 6). -/
def State.atStart? (s : State) (p : Preset) : Bool :=
  decide (mag (s.ownPos - p.posAt 0) ≤ s.start.profile.startTol * 256)

/-- An accepted ARM (R76): the context made in its place, the JOIN handed or dropped. -/
def State.acceptArm (s : State) (pl : Place) (moveId : Byte) (slot : Fin 48) (p : Preset) : State :=
  let own := if s.link.room .cue then OwnJoin.queued else OwnJoin.dropped
  let c := newJoint s.moves.nextSerial moveId slot p own
  let s1 := s.putContext pl (some c)
  let s2 := { s1 with moves := { s1.moves with lastAbandon := none, nextSerial := s.moves.nextSerial + 1 } }
  s2.hand .cue { frame := .join moveId, ctx := some s.moves.nextSerial }

/-- Test 6 for a context placed as ACTIVE, and the acceptance (R73, R76). -/
def State.armActive (s : State) (tag moveId : Byte) (slot : Fin 48) (p : Preset) : State :=
  if s.atStart? p then (s.acceptArm .active moveId slot p).answer tag .ok
  else s.answer tag .notAtStart

/-- Tests 5 and 6 of an ARM whose slot holds `p` (R73 to R76). -/
def State.armPlaced (s : State) (tag moveId : Byte) (slot : Fin 48) (p : Preset) (splice : Bool) : State :=
  match s.moves.place moveId splice with
  | .asActive => s.armActive tag moveId slot p
  | .superseding => s.supersede.armActive tag moveId slot p
  | .asPending => (s.acceptArm .pending moveId slot p).answer tag .ok
  | .refuse rc => s.answer tag rc

/-- An ARM that concerns the node (R73). -/
def State.armTested (s : State) (tag moveId slotByte : Byte) (splice : Bool) : State :=
  if s.axis.nodeState ≠ .active then s.answer tag .refusedState
  else match slotOfByte slotByte with
  | none => s.answer tag .badArgument
  | some slot =>
    if moveId = 0 then s.answer tag .badArgument
    else match s.store.slots[slot].readable with
    | .error rc => s.answer tag rc
    | .ok p => s.armPlaced tag moveId slot p splice

/-- ARM (R72 to R76). -/
def execArm (rx : Rx) (tag moveId slot : Byte) (targets : StationSet) (splice : Bool) (s : State) : Result :=
  s.arrive rx (.arm tag moveId slot targets splice) (fun _ t =>
    if targets.has t.start.station then t.armTested tag moveId slot splice else t)

/-! ## JOIN -/

/-- A JOIN taken by a context in MP_GATHER (R77). -/
def Context.joined (c : Context) (src : Station) (own : Bool) : Context :=
  let c1 := if c.parts.has src then c else { c with parts := c.parts.add src, gatherCd := Config.gatherWindow }
  if own then { c1 with ownJoin := some .heard } else c1

/-- A JOIN at the place that gathers under its move id (R72, R77). -/
def State.joinAt (s : State) (src : Station) (own : Bool) (moveId : Byte) : State :=
  match s.moves.find? moveId with
  | none => s
  | some p =>
    match s.moves.at p with
    | some c => if c.phase = .gather then s.putContext p (some (c.joined src own)) else s
    | none => s

/-- JOIN (R72, R77). -/
def execJoin (rx : Rx) (moveId : Byte) (s : State) : Result :=
  s.arrive rx (.join moveId) (fun own t => t.joinAt rx.src own moveId)

/-! ## GO, HOLD, RESUME, RELEASE -/

/-- A cue other than ARM, JOIN and CANCEL concerns the context that holds its move id 1..255 (R72). -/
def State.cueAt (s : State) (moveId : Byte) (act : Place → Context → State) : State :=
  if moveId = 0 then s
  else match s.moves.find? moveId with
  | none => s
  | some p =>
    match s.moves.at p with
    | some c => act p c
    | none => s

/-- A playback cue in the gather (R80). -/
def State.earlyCue (s : State) (p : Place) (tag : Option Byte) : State :=
  (s.abandon p .earlyCue).answerCue tag .refusedState

/-- A GO taken: MP_POSTED with the lead clamped to 0..250 (R82). -/
def Context.post (c : Context) (lead : Nat) : Context :=
  { c with phase := .posted, postCd := min lead Config.leadMax, due := false }

/-- GO by the phase of its context (R80, R82, R108). -/
def State.goAt (s : State) (tag : Byte) (lead : Nat) (p : Place) (c : Context) : State :=
  match c.phase with
  | .gather => s.earlyCue p (some tag)
  | .armed | .posted =>
    if s.allFresh c.parts then ((s.putContext p (some (c.post lead))).lapseIfStranded).answer tag .ok
    else s.answer tag .peerLost
  | .running | .holding | .suspended | .resuming | .finished | .releasing => s.answer tag .refusedState

/-- GO (R72, R80, R82; log entry 12). -/
def execGo (rx : Rx) (tag moveId lead : Byte) (s : State) : Result :=
  s.arrive rx (.go tag moveId lead) (fun _ t => t.cueAt moveId (t.goAt tag lead.toNat))

/-- HOLD at a context that runs or resumes (R100): deferred in the resume gap when a console sent it. -/
def Context.hold (c : Context) (tagged : Bool) : Context :=
  if c.gap ≠ 0 ∧ tagged then { c with deferred := true } else { c with phase := .holding }

/-- HOLD by the phase of its context (R80, R82, R100). -/
def State.holdAt (s : State) (tag : Option Byte) (p : Place) (c : Context) : State :=
  match c.phase with
  | .gather => s.earlyCue p tag
  | .armed => s.answerCue tag .ok
  | .posted => ((s.putContext p (some c.rearm)).lapseIfStranded).answerCue tag .ok
  | .running | .resuming => (s.putContext p (some (c.hold tag.isSome))).answerCue tag .ok
  | .holding | .suspended => s.answerCue tag .ok
  | .finished | .releasing => s.answerCue tag .refusedState

/-- HOLD (R72, R80, R82, R100). -/
def execHold (rx : Rx) (tag : Option Byte) (moveId : Byte) (s : State) : Result :=
  s.arrive rx (.hold tag moveId) (fun _ t => t.cueAt moveId (t.holdAt tag))

/-- RESUME by the phase of its context (R80, R82, R101). -/
def State.resumeAt (s : State) (tag : Option Byte) (p : Place) (c : Context) : State :=
  match c.phase with
  | .gather => s.earlyCue p tag
  | .armed | .posted => s.answerCue tag .refusedState
  | .holding | .suspended =>
    if s.allFresh c.parts then
      (s.putContext p (some { c with phase := .resuming, gap := Config.resumeGap })).answerCue tag .ok
    else s.answerCue tag .peerLost
  | .resuming => (s.putContext p (some { c with deferred := false })).answerCue tag .ok
  | .running | .finished | .releasing => s.answerCue tag .refusedState

/-- RESUME (R72, R80, R82, R101). -/
def execResume (rx : Rx) (tag : Option Byte) (moveId : Byte) (s : State) : Result :=
  s.arrive rx (.resume tag moveId) (fun _ t => t.cueAt moveId (t.resumeAt tag))

/-- RELEASE by the phase of its context (R80, R82, R108). -/
def State.releaseAt (s : State) (tag : Option Byte) (p : Place) (c : Context) : State :=
  match c.phase with
  | .gather => s.earlyCue p tag
  | .releasing => s.answerCue tag .ok
  | .armed | .posted | .running | .holding | .suspended | .resuming | .finished =>
    (s.putContext p (some { c with releaseAtEnd := true })).answerCue tag .ok

/-- RELEASE (R72, R80, R82, R108). -/
def execRelease (rx : Rx) (tag : Option Byte) (moveId : Byte) (s : State) : Result :=
  s.arrive rx (.release tag moveId) (fun _ t => t.cueAt moveId (t.releaseAt tag))

/-! ## CANCEL -/

/-- CANCEL at the context that holds its move id, 0 matching an APPROACH context (R72, R87). -/
def State.cancelAt (s : State) (tag : Option Byte) (moveId : Byte) : State :=
  match s.moves.find? moveId with
  | none => s
  | some p => (s.abandon p .cancelled).answerCue tag .ok

/-- CANCEL (R72, R80, R87). -/
def execCancel (rx : Rx) (tag : Option Byte) (moveId : Byte) (s : State) : Result :=
  s.arrive rx (.cancel tag moveId) (fun _ t => t.cancelAt tag moveId)

end Sys2Proof.Machine
end

