-- ==== Sys2Proof/Machine/Arriving.lean ====
section
/-! DEFINITION. The other frame arrivals: HALT (R141), SURGE (R60, R61), STICK (R53), STATE (R45, R46, R170)
and DESCRIPTOR (R164). -/

namespace Sys2Proof.Machine

/-- HALT (R141, R88): from any station and by loopback; source and cause are not read (R164). -/
def execHalt (rx : Rx) (cause : HaltCause) (s : State) : Result :=
  s.arrive rx (.halt cause) (fun _ t => t.halt)

/-- A claim taken against the window (R60). -/
def claimWindow (w : List Claim) (src : Station) : List Claim :=
  if w.length < Config.surgeSlots then w ++ [⟨src, Config.surgeLife⟩] else w

/-- The status settled by the node's own loopback (R61; a status the table does not name stands, log entry 9). -/
def Surge.settle (g : Surge) (accepted : Bool) : Surge :=
  match g.status with
  | .sent =>
    if accepted then { g with status := .granted, countdown := Config.surgeGrant }
    else { g with status := .none, countdown := 0 }
  | .none | .queued | .granted => g

/-- A SURGE frame at the surge unit (R60, R61). -/
def State.claimArrives (s : State) (src : Station) (own : Bool) : State :=
  let g := { s.surge with window := claimWindow s.surge.window src }
  let accepted := decide (s.surge.window.length < Config.surgeSlots)
  { s with surge := if own then g.settle accepted else g }

/-- SURGE (R60, R61). -/
def execSurge (rx : Rx) (s : State) : Result :=
  s.arrive rx .surge (fun own t => t.claimArrives rx.src own)

/-- The channel of a STICK frame for a role: the first that bears it (R53). -/
def channelFor (role : Role) (channels : List Channel) : Option Channel :=
  channels.find? (fun c => c.role == role)

/-- A STICK frame at the stick record (R53). -/
def State.stickArrives (s : State) (src : Station) (enable : Bool) (channels : List Channel) : State :=
  if s.start.accepted ∧ s.start.profile.stickSource = some src then
    match channelFor s.start.profile.role channels with
    | some c =>
      { s with peers := { s.peers with
          stick := some { enable := enable, d := clamp (-2047) 2047 c.deflection.toInt, age := 0 } } }
    | none => s
  else s

/-- STICK (R53). -/
def execStick (rx : Rx) (enable : Bool) (channels : List Channel) (s : State) : Result :=
  s.arrive rx (.stick enable channels) (fun _ t => t.stickArrives rx.src enable channels)

/-- The entry a STATE frame writes (R44, R45). -/
def entryOf (r : StateReport) : PeerEntry :=
  { setpoint := r.setpoint, velocity := r.velocity, report := r.report, parts := r.parts,
    timeline := r.timeline, age := 0 }

/-- A station's place written (R45). -/
def State.writeEntry (s : State) (n : Station) (e : PeerEntry) : State :=
  { s with peers := { s.peers with entries := s.peers.entries.set n.val (some e) } }

/-- A STATE frame at the peer table (R45, R46), or a station clash (R170). -/
def State.stateArrives (s : State) (src : Station) (own : Bool) (r : StateReport) : State :=
  if src = s.start.station ∧ !own then s.clash
  else (s.writeEntry src (entryOf r)).updateNotice src

/-- STATE_ARRIVAL (R45, R46, R50, R170). -/
def execStateArrival (rx : Rx) (r : StateReport) (s : State) : Result :=
  s.arrive rx (.state r) (fun own t => t.stateArrives rx.src own r)

/-- DESCRIPTOR_ARRIVAL: no block acts on it (R164). -/
def execDescriptorArrival (rx : Rx) (page : Byte) (content : List Byte) (s : State) : Result :=
  s.arrive rx (.descriptor page content) (fun _ t => t)

end Sys2Proof.Machine
end

