-- ==== Sys2Proof/Machine/Storing.lean ====
section
/-! DEFINITION. The preset store's commands and events (07_the_preset_store.md), and GOTO_START (R112). -/

namespace Sys2Proof.Machine

/-! ## The edit buffer -/

/-- The first two tests of CAPTURE, UNDO and EDIT_CLEAR (R121, R122). -/
def State.bufferTests (s : State) : List (Bool × ResultCode) :=
  [(s.axis.nodeState.blends, .refusedState), (!s.store.op.inFlight, .busy)]

/-- The edit buffer replaced. -/
def State.setBuffer (s : State) (b : List Keyframe) : State := { s with store := { s.store with buffer := b } }

/-- The keyframe a CAPTURE appends (R121): keyframe 0 takes no motion, a later one the command's duration clamped
to 1..30000 and its easing. -/
def capturedKey (buffer : List Keyframe) (o : Int) (dur : Nat) (easing : Easing) : Keyframe :=
  { pos := o, motion := if buffer.isEmpty then none else some ⟨max 1 (min dur Config.segMax), easing⟩ }

/-- CAPTURE at the store (R121). -/
def State.captureAt (s : State) (tag : Byte) (dur : Nat) (easing : Easing) : State :=
  s.tested tag (s.bufferTests ++ [(decide (s.store.buffer.length < Config.keysMax), .bufferFull)])
    (fun t => t.setBuffer (t.store.buffer ++ [capturedKey t.store.buffer t.ownPos dur easing]))

/-- CAPTURE (R121). -/
def execCapture (h : SvcHead) (dur : BitVec 16) (easing : Easing) (s : State) : Result :=
  s.service h (.capture dur easing) (fun t => t.captureAt h.tag dur.toNat easing)

/-- UNDO (R122). -/
def execUndo (h : SvcHead) (s : State) : Result :=
  s.service h .undo (fun t => t.tested h.tag t.bufferTests (fun u => u.setBuffer u.store.buffer.dropLast))

/-- EDIT_CLEAR (R122). -/
def execEditClear (h : SvcHead) (s : State) : Result :=
  s.service h .editClear (fun t => t.tested h.tag t.bufferTests (fun u => u.setBuffer []))

/-! ## Store operations -/

/-- An operation begins (R120, R124, R129, R130): the slot's status, its image gone, and its region's marker set
to incomplete. -/
def State.beginOp (s : State) (slot : Fin 48) (during : Slot) (op : StoreOp) : State :=
  { s with store := { s.store with
      slots := s.store.slots.set slot during
      op := op
      regions := s.store.regions.set slot { s.store.regions[slot] with marker := .incomplete } } }

/-- The record a COMMIT forms (R123, R124): the edit buffer's keyframes, the command's values clamped. -/
def formedRecord (buffer : List Keyframe) (auto protect : Bool) (fIn fOut dwell sTrim : Nat) : Preset :=
  { keys := buffer, fIn := min fIn Config.fadeMax, fOut := min fOut Config.fadeMax,
    dwell := min dwell Config.fadeMax, sTrim := min sTrim 256, autoRelease := auto, protect := protect }

/-- The store operation is LOCKED. -/
def StoreOp.isLocked : StoreOp → Bool
  | .locked => true
  | .idle | .checking _ | .writing _ _ | .erasing _ => false

/-- COMMIT at the store, with the record it would form (R123, R124). -/
def State.commitAt (s : State) (tag slotByte : Byte) (record : Preset) : State :=
  match slotOfByte slotByte with
  | none => s.answer tag .badArgument
  | some slot =>
    s.tested tag
      [(!s.store.op.isLocked, .storeLocked), (!s.store.op.busy, .busy),
       (decide (2 ≤ s.store.buffer.length), .bufferShort),
       (s.store.slots[slot].status != .guarded, .slotProtected), (!s.moves.guards slot, .slotBusy)]
      (fun t => t.beginOp slot .writing (.writing ⟨.commit, slot, tag, 0⟩ record))

/-- COMMIT (R123, R124). -/
def execCommit (h : SvcHead) (slot : Byte) (auto protect : Bool) (fIn fOut dwell sTrim : BitVec 16) (s : State) :
    Result :=
  s.service h (.commit slot auto protect fIn fOut dwell sTrim) (fun t =>
    t.commitAt h.tag slot
      (formedRecord t.store.buffer auto protect fIn.toNat fOut.toNat dwell.toNat sTrim.toNat))

/-- The erase of a DELETE that passed: nothing for an EMPTY slot (R129). -/
def State.beginErase (s : State) (slot : Fin 48) (tag : Byte) : State :=
  if s.store.slots[slot].status = .empty then s
  else s.beginOp slot .erasing (.erasing ⟨.delete, slot, tag, 0⟩)

/-- DELETE at the store (R129). -/
def State.deleteAt (s : State) (tag slotByte : Byte) : State :=
  match slotOfByte slotByte with
  | none => s.answer tag .badArgument
  | some slot =>
    s.tested tag
      [(!s.store.op.isLocked, .storeLocked), (!s.store.op.busy, .busy),
       (s.store.slots[slot].status != .guarded, .slotProtected), (!s.moves.guards slot, .slotBusy)]
      (fun t => t.beginErase slot tag)

/-- DELETE (R129). -/
def execDelete (h : SvcHead) (slot : Byte) (s : State) : Result :=
  s.service h (.delete slot) (fun t => t.deleteAt h.tag slot)

/-- The write of an UNPROTECT that passed: nothing for a slot that is VALID (R130). -/
def State.beginUnprotect (s : State) (slot : Fin 48) (tag : Byte) : State :=
  match s.store.slots[slot] with
  | .held p =>
    if p.protect then s.beginOp slot .writing (.writing ⟨.unprotect, slot, tag, 0⟩ { p with protect := false })
    else s
  | .empty | .writing | .erasing | .invalid => s

/-- UNPROTECT at the store (R130). -/
def State.unprotectAt (s : State) (tag slotByte : Byte) : State :=
  match slotOfByte slotByte with
  | none => s.answer tag .badArgument
  | some slot =>
    s.tested tag
      [(decide (s.axis.nodeState = .braked), .refusedState), (!s.store.op.isLocked, .storeLocked),
       (!s.store.op.busy, .busy), (s.store.slots[slot].status != .empty, .slotEmpty),
       (s.store.slots[slot].status != .invalid, .slotInvalid)]
      (fun t => t.beginUnprotect slot tag)

/-- UNPROTECT (R130). -/
def execUnprotect (h : SvcHead) (slot : Byte) (s : State) : Result :=
  s.service h (.unprotect slot) (fun t => t.unprotectAt h.tag slot)

/-- The good end of an operation (R125): status, image, buffer, the region as its step 4 left it; the echo
stands. -/
def State.storeDone (s : State) (op : OpRecord) : State :=
  let slot' : Slot := match s.store.op with
    | .writing _ p => .held p
    | .idle | .checking _ | .erasing _ | .locked => .empty
  { s with store := { s.store with
      slots := s.store.slots.set op.slot slot'
      buffer := if op.kind = .commit then [] else s.store.buffer
      op := .idle
      regions := s.store.regions.set op.slot (s.store.op.finished s.store.regions[op.slot]) } }

/-- A store completion (R125, R126): ignored with no operation in flight. -/
def State.storeCompletes (s : State) (good : Bool) : State :=
  match s.store.op.record? with
  | none => s
  | some op => if good then s.storeDone op else s.storeFails op

/-- STORE_COMPLETION (R125, R126, R127). -/
def execStoreCompletion (good : Bool) (s : State) : Result :=
  whenAble s.live s (s.storeCompletes good)

/-! ## GOTO_START -/

/-- The duration of an APPROACH segment (R112). -/
def approachPeriods (delta vApproach : Int) : Nat :=
  (clamp 1 Config.segMax (ceilDiv (3 * mag delta) (2 * vApproach))).toNat

/-- The preset copy of an APPROACH move (R112), its protected flag the model's (log entry 32). -/
def approachPreset (o p0 vApproach : Int) : Preset :=
  { keys := [⟨o, none⟩, ⟨p0, some ⟨approachPeriods (p0 - o) vApproach, .smooth⟩⟩], fIn := 0, fOut := 25, dwell := 0,
    sTrim := 0, autoRelease := true, protect := false }

/-- The APPROACH context, posted to fire at the next expiry (R112). R112 gives no value for its release at end, and none
for the protected flag of its preset copy: the model sets both to no (log entry 32). -/
def newApproach (serial : Nat) (slot : Fin 48) (preset : Preset) (station : Station) : Context :=
  { moveId := 0, kind := .approach, slot := slot, preset := preset, parts := StationSet.only station,
    ownJoin := none, phase := .posted, gatherCd := 0, armedCd := Config.armExpiry, postCd := 0, due := false,
    releaseAtEnd := false, t := 0, k := 0, r := 0, lam := 0, w := 0, fadeIn := 0, wFloor := 0, fadeOut := 0,
    w0 := 0, dwell := 0, gap := 0, deferred := false, serial := serial }

/-- The approach built (R112). -/
def State.beginApproach (s : State) (slot : Fin 48) (p : Preset) : State :=
  let c := newApproach s.moves.nextSerial slot
    (approachPreset s.ownPos (p.posAt 0) s.start.profile.vApproach) s.start.station
  { s with moves := { s.moves with active := some c, lastAbandon := none, nextSerial := s.moves.nextSerial + 1 } }

/-- GOTO_START at the move engine (R112). -/
def State.gotoStartAt (s : State) (tag slotByte : Byte) : State :=
  if s.axis.nodeState ≠ .active then s.answer tag .refusedState
  else match slotOfByte slotByte with
  | none => s.answer tag .badArgument
  | some slot =>
    match s.store.slots[slot].readable with
    | .error rc => s.answer tag rc
    | .ok p => s.tested tag [(s.moves.none?, .busy)] (fun t => t.beginApproach slot p)

/-- GOTO_START (R112). -/
def execGotoStart (h : SvcHead) (slot : Byte) (s : State) : Result :=
  s.service h (.gotoStart slot) (fun t => t.gotoStartAt h.tag slot)

end Sys2Proof.Machine
end

