-- ==== Sys2Proof/Machine/Starting.lean ====
section
/-! DEFINITION. Starts (11_start_up_profile_and_descriptor.md, R134, R180): the resets, the profile decision, the
slot check, the end of NS_STARTING; and the drive answer that may end it (R152). -/

namespace Sys2Proof.Machine

/-! ## The end of NS_STARTING -/

/-- The last condition of NS_STARTING is complete (R134). -/
def State.startingDone (s : State) : Bool :=
  s.start.decided && (match s.store.op with | .checking _ => false | _ => true) &&
  (!s.start.accepted || s.drive.actual.isSome)

/-- NS_STARTING left for NS_CONFIG_FAULT with its cause (R135), NS_FAULTED or NS_BRAKED (R134). -/
def State.leaveStarting (s : State) : State :=
  if !s.start.accepted then
    let cause := if s.axis.cause = .linkStarved ∧ s.link.owed = Config.owedLimit then .linkStarved else .config
    (s.enter .configFault).setCause cause
  else if s.axis.startFault then s.enter .faulted
  else s.enter .braked

/-- NS_STARTING ends at the event that completes the last of its conditions (R134). -/
def State.finishStarting (s : State) : State :=
  if s.axis.nodeState = .starting ∧ s.startingDone then s.leaveStarting else s

/-! ## The profile decision -/

/-- The profile decided (R175, R177): status, failing field, the image copy, and the blocks' values when it is
accepted. -/
def State.decideProfile (s : State) (answered : List Byte) : State :=
  let j := judgeProfile answered s.start.station
  let img := imageCopy answered
  { s with start := { s.start with
      status := j.1, failing := j.2, image := img,
      profile := if j.1 = .good then readProfile img else s.start.profile } }

/-- PROFILE_DECISION while the status is READING (R174, R177). -/
def State.profileStep (s : State) (answered : List Byte) : State :=
  if s.start.decided then s else (s.decideProfile answered).finishStarting

/-- PROFILE_DECISION (R177). -/
def execProfileDecision (answered : List Byte) (s : State) : Result :=
  whenAble s.live s (s.profileStep answered)

/-! ## The slot check -/

/-- A slot as the start-up check decides it from its region (R119). -/
def decidedSlot (r : Region) : Slot :=
  match r.marker, r.bytes with
  | .erased, [] => .empty
  | .complete, bs =>
    match checkedRecord bs with
    | some p => .held p
    | none => .invalid
  | _, _ => .invalid

/-- One slot decided (R119). -/
def Store.decideSlot (st : Store) (k : Fin 48) : Store :=
  { st with slots := st.slots.set k (decidedSlot st.regions[k]) }

/-- The slots from number `k` on. -/
def slotsFrom (k : Nat) : List (Fin 48) := (List.finRange 48).filter (fun n => decide (k ≤ n.val))

/-- The slot check's end: every slot not yet reached is decided, and the store operation becomes IDLE (R119). -/
def State.slotStep (s : State) : State :=
  match s.store.op with
  | .checking k =>
    let st := (slotsFrom k).foldl Store.decideSlot s.store
    ({ s with store := { st with op := .idle } }).finishStarting
  | .idle | .writing _ _ | .erasing _ | .locked => s

/-- SLOT_CHECK_END (R119). -/
def execSlotCheckEnd (s : State) : Result := whenAble s.live s s.slotStep

/-- What the store does by itself between commands (R119; log entry 6): the check decides its next slot, short of
the last, whose decision is SLOT_CHECK_END. A node held in reset does nothing (R180). -/
def State.background (s : State) : State :=
  match s.store.op with
  | .checking k =>
    if h : k < 47 then
      if s.live then { s with store := { s.store.decideSlot ⟨k, by omega⟩ with op := .checking (k + 1) } } else s
    else s
  | .idle | .writing _ _ | .erasing _ | .locked => s

/-! ## The drive answer -/

/-- The outcome an answer in time gives the exchange (R152). -/
def answeredOutcome (old : ExchangeOutcome) (position : Int) (ready : Bool) : ExchangeOutcome :=
  match old with
  | .awaiting => if ready then .answered position else .notReady
  | .answered p => .answered p
  | .notReady => .notReady

/-- A drive answer against the exchange record (R152): in time, late, or ignored. An answer carries its number alone, so
one to an exchange sent before a reset whose number meets the new record, 255 or 0 beside exchange 0, is taken by R152's
table, though R156 has such answers ignored: the model's choice (log entry 35). -/
def Drive.take (d : Drive) (number : Byte) (position : Int) (ready : Bool) : Drive :=
  match d.exchange with
  | none => d
  | some e =>
    if number = e.number then
      { d with actual := some position,
               exchange := some { e with outcome := answeredOutcome e.outcome position ready } }
    else if number = e.number - 1 then { d with actual := some position }
    else d

/-- The drive answer, which may be the last condition of NS_STARTING (R134, R152). -/
def State.answerStep (s : State) (number : Byte) (position : Int) (ready : Bool) : State :=
  ({ s with drive := s.drive.take number position ready }).finishStarting

/-- DRIVE_ANSWER (R152). -/
def execDriveAnswer (number : Byte) (position : Int) (ready : Bool) (s : State) : Result :=
  whenAble s.live s (s.answerStep number position ready)

/-- The event that completes the last condition. -/
def State.lastStep (s : State) : StartingLast → State
  | .profileDecision answered => s.profileStep answered
  | .slotCheckEnd => s.slotStep
  | .driveAnswer number position ready => s.answerStep number position ready

/-- STARTING_END (R134): the event of its operand, where it completes the last condition (log entry 1). -/
def execStartingEnd (last : StartingLast) (s : State) : Result :=
  whenAble (s.live && decide (s.axis.nodeState = .starting ∧ (s.lastStep last).axis.nodeState ≠ .starting))
    s (s.lastStep last)

/-! ## Resets -/

/-- Every block at its reset values and a start begun with the straps read (R174, R180); an operation in flight
is cut short in the store memory (R132). -/
def State.begun (s : State) (straps : Station) (stepFourDone : Bool) : State :=
  State.atStart straps (s.store.cutRegions stepFourDone) s.pending

/-- The node while the reset line is held: straps unread, nothing received or sent (R173, R180). That every block takes its
reset values already when the line becomes held, and not at the release alone, is the model's choice (log entry 37). -/
def State.held (s : State) (stepFourDone : Bool) : State :=
  let t := s.begun 0 stepFourDone
  { t with start := { t.start with resetHeld := true, strapsRead := false } }

/-- POWER_ON_RESET (R180); with the reset line held, the start waits for its release (log entry 26). -/
def execPowerOnReset (straps : Station) (stepFourDone : Bool) (s : State) : Result :=
  .next (if s.start.resetHeld then s.held stepFourDone else s.begun straps stepFourDone)

/-- RESET_LINE (R180). -/
def execResetLine (edge : ResetEdge) (s : State) : Result :=
  match edge with
  | .held stepFourDone => .next (s.held stepFourDone)
  | .released straps stepFourDone => .next (s.begun straps stepFourDone)

end Sys2Proof.Machine
end

