-- ==== Sys2Proof/Machine/AxisCommands.lean ====
section
/-! DEFINITION. The SERVICE commands of the axis state machine (8.2, 8.3, 8.6, 8.7) and QUERY (11.4). -/

namespace Sys2Proof.Machine

/-! ## QUERY -/

/-- A slice of the image copy, `n` bytes from `off`. -/
def imageSlice (img : List Byte) (off n : Nat) : List Byte := (img.drop off).take n

/-- The failing field as page 0 shows it: its byte offset, 0xFF when absent (12.1). -/
def failingByte : Option Nat → Byte
  | some off => byteOf off
  | none => 0xFF

/-- The content of a descriptor page as it stands (R179, 12.1). -/
def State.pageContent (s : State) (page : Byte) : List Byte :=
  match page.toNat with
  | 0 => bytes16 0x0B6E ++ bytes16 0x2601 ++
      [1, byteOf s.start.station.val, byteOf s.reportedRole.code, byteOf s.start.status.code,
       failingByte s.start.failing]
  | 1 => imageSlice s.start.image 1 18 ++ imageSlice s.start.image 44 8
  | 2 => imageSlice s.start.image 19 25
  | _ => s.store.slots.toList.map (fun sl => byteOf sl.status.code) ++ [byteOf s.store.op.code]

/-- QUERY at the descriptor (R179): a DESCRIPTOR frame for the SERVICE lane. -/
def State.queryAt (s : State) (tag page : Byte) : State :=
  s.tested tag [(decide (page.toNat ≤ 3), .badArgument)]
    (fun t => t.hand .service (plain (.descriptor page (t.pageContent page))))

/-- QUERY (R179). -/
def execQuery (h : SvcHead) (page : Byte) (s : State) : Result :=
  s.service h (.query page) (fun t => t.queryAt h.tag page)

/-! ## PARK and UNPARK -/

/-- The axis is at rest with no context (R139). -/
def State.still (s : State) : Bool := decide (s.limiter.vc = 0) && s.moves.none?

/-- The state a PARK enters (R139). -/
def ParkMode.target : ParkMode → NodeState
  | .hold => .holdPark
  | .brake => .brakeEngage

/-- PARK (R139, R140). -/
def execPark (h : SvcHead) (mode : ParkMode) (s : State) : Result :=
  s.service h (.park mode) (fun t =>
    t.tested h.tag [(decide (t.axis.nodeState = .active), .refusedState), (t.still, .notStill)]
      (fun u => u.enter (ParkMode.target mode)))

/-- UNPARK at the axis state machine (R136, R138). -/
def State.unparkAt (s : State) (tag : Byte) : State :=
  match s.axis.nodeState with
  | .braked =>
    s.tested tag [(!s.axis.haltLatch, .halted), (decide (s.axis.cause = .none), .refusedState)]
      (fun t => t.enter .brakeRelease)
  | .holdPark => ({ s with axis := { s.axis with unparkPending := true } }).answer tag .ok
  | .starting | .configFault | .brakeRelease | .active | .brakeEngage | .stopping | .stopped | .faulted =>
    s.answer tag .refusedState

/-- UNPARK (R136, R138). -/
def execUnpark (h : SvcHead) (s : State) : Result := s.service h .unpark (fun t => t.unparkAt h.tag)

/-! ## CLEAR -/

/-- A CLEAR acts on the latch or the cause (R147). -/
def State.clearActs (s : State) : Bool :=
  match s.axis.nodeState with
  | .stopped => !s.drive.lines.estop.active && decide (s.link.owed < Config.owedLimit)
  | .faulted => !s.drive.lines.driveFault.active && decide (s.link.owed < Config.owedLimit)
  | .braked =>
    (s.axis.haltLatch || decide (s.axis.cause ≠ .none)) && !s.drive.lines.estop.active &&
      decide (s.link.owed < Config.owedLimit)
  | .starting | .configFault | .brakeRelease | .active | .holdPark | .brakeEngage | .stopping => false

/-- The effect of a CLEAR that acts (R147). -/
def State.cleared (s : State) : State :=
  match s.axis.nodeState with
  | .stopped => ({ s with axis := { s.axis with haltLatch := false, cause := .none } }).enter .active
  | .faulted => (s.setCause .none).enter .braked
  | .braked => { s with axis := { s.axis with haltLatch := false, cause := .none } }
  | .starting | .configFault | .brakeRelease | .active | .holdPark | .brakeEngage | .stopping => s

/-- A LOCKED store unlocked (R128). -/
def State.unlocked (s : State) : State :=
  if s.store.op.isLocked then { s with store := { s.store with op := .idle } } else s

/-- CLEAR at the store and at the axis state machine (R128, R147). -/
def State.clearAt (s : State) (tag : Byte) : State :=
  if s.clearActs then (s.unlocked.cleared).answer tag .ok
  else if s.store.op.isLocked then s.unlocked.answer tag .ok
  else s.answer tag .refusedState

/-- CLEAR (R128, R147). -/
def execClear (h : SvcHead) (s : State) : Result := s.service h .clear (fun t => t.clearAt h.tag)

/-! ## RESTART -/

/-- RESTART at the axis state machine (R148): a taken one is a reset and is not answered. -/
def State.restartAt (s : State) (tag : Byte) (straps : Station) : State :=
  if !s.axis.nodeState.rests then s.answer tag .refusedState
  else if s.store.op.busy then s.answer tag .busy
  else s.begun straps false

/-- RESTART (R148, R180). -/
def execRestart (h : SvcHead) (straps : Station) (s : State) : Result :=
  s.service h .restart (fun t => t.restartAt h.tag straps)

end Sys2Proof.Machine
end

