-- ==== Sys2Proof/Machine/LineEvents.lean ====
section
/-! DEFINITION. The events of the line (10.2, 10.5, 10.6): the idle with its arbitration, and the two ends of the
node's own frame. -/

namespace Sys2Proof.Machine

/-- The lane the node offers from: its lowest that is not empty (R165). -/
def Link.offeredLane (l : Link) : Option Lane := Lane.all.find? (fun k => !(l.lane k).isEmpty)

/-- The node's key is the lowest of all that are offered, or shares the lowest (R160; log entry 23). -/
def winsLine (key : Byte) (others : List Byte) : Bool := others.all (fun o => decide (key.toNat ≤ o.toNat))

/-- The line takes the oldest frame of a lane: it leaves the lane's list and is held on the line (R165). -/
def Link.takeFrom (l : Link) (k : Lane) : Link :=
  match l.lane k with
  | [] => l
  | q :: rest => { l.setLane k rest with onLine := some { lane := k, item := q, withdrawn := false } }

/-- An idle of the line (R160, R165). A departed frame's loopback may still come after it: other events of the node
may be taken between the two (R161; log entry 7). -/
def Link.idle (l : Link) (station : Station) (others : List Byte) : Link :=
  match l.onLine, l.offeredLane with
  | none, some k => if winsLine (keyByte k.cls station) others then l.takeFrom k else l
  | none, none => l
  | some _, _ => l

/-- LINE_IDLE (R160, R165). -/
def execLineIdle (others : List Byte) (s : State) : Result :=
  whenAble s.live s { s with link := s.link.idle s.start.station others }

/-- The departure of a JOIN reported to the context it was made for (R77). -/
def Context.joinSent (serial : Option Nat) (c : Context) : Context :=
  if serial = some c.serial ∧ c.ownJoin = some .queued then { c with ownJoin := some .sent } else c

/-- A departure reported to the block that made the frame (R59, R77, R161, R169). -/
def State.departureReported (s : State) (o : OnLine) : State :=
  match o.lane with
  | .surge =>
    if s.surge.status = .queued ∧ !o.withdrawn then { s with surge := { s.surge with status := .sent } } else s
  | .cue =>
    { s with moves := { s.moves with
        active := s.moves.active.map (Context.joinSent o.item.ctx)
        pending := s.moves.pending.map (Context.joinSent o.item.ctx) } }
  | .state =>
    let s1 := { s with link := { s.link with owed := 0 } }
    if s.link.owed = Config.owedLimit ∧ s.axis.nodeState = .configFault ∧ s.axis.cause = .linkStarved then
      s1.setCause .config
    else s1
  | .halt | .service => s

/-- The departure of the node's frame (R161, R168, R169). -/
def State.departs (s : State) : State :=
  match s.link.onLine with
  | none => s
  | some o =>
    ({ s with link := { s.link with onLine := none, departed := some o.item.frame } }).departureReported o

/-- FRAME_DEPARTURE (R161). -/
def execFrameDeparture (s : State) : Result := whenAble s.live s s.departs

/-- A STATE frame that ends unacknowledged (R168): back to an empty lane, or discarded and counted. -/
def State.stateReturns (s : State) (q : Queued) : State :=
  if s.link.stateLane.isEmpty then { s with link := { s.link with onLine := none, stateLane := [q] } }
  else
    let s1 := { s with link := { s.link with onLine := none, owed := owedMore s.link.owed } }
    if starvedBetween s.link.owed s1.link.owed then s1.starved else s1

/-- The node's frame ends unacknowledged (R161, R166, R167, R168). -/
def State.returns (s : State) : State :=
  match s.link.onLine with
  | none => s
  | some o =>
    match o.lane with
    | .state => s.stateReturns o.item
    | .halt | .surge | .cue | .service =>
      let l := { s.link with onLine := none }
      { s with link := if o.withdrawn then l else l.setLane o.lane (o.item :: l.lane o.lane) }

/-- FRAME_UNACKNOWLEDGED (R161, R166, R168; log entry 11). -/
def execFrameUnacknowledged (s : State) : Result := whenAble s.live s s.returns

end Sys2Proof.Machine
end

