-- ==== Sys2Proof/Machine/TimedEvents.lean ====
section
/-! DEFINITION. The period expiry, and the timed events that the opcode table lists beside it. A timed event's
command is the reaction, at a period expiry, of the block that owns the event: it takes place where that reaction
brings the event about, and changes nothing elsewhere (log entry 1). -/

namespace Sys2Proof.Machine

/-- PERIOD_EXPIRY (R23; 00_scope.md, "Time and events"): the period timer runs from the profile decision on
(R174). -/
def execPeriodExpiry (input : ExpiryInput) (s : State) : Result :=
  whenAble s.timerRuns s (s.expiry input)

/-! ## The move engine's events -/

/-- Some context meets a condition. -/
def Moves.any (m : Moves) (q : Context → Bool) : Bool := m.active.any q || m.pending.any q

/-- An event of the move engine: its reaction, where the event comes about. -/
def State.moveEvent (s : State) (comes : Bool) : Result := whenAble (s.timerRuns && comes) s s.moveReaction

/-- A gather countdown that the next expiry takes to 0. -/
def Context.gatherEnds (c : Context) : Bool := c.phase == .gather && decide (c.gatherCd ≤ 1)

/-- An armed countdown that the next expiry takes to 0. -/
def Context.armedEnds (c : Context) : Bool := c.phase == .armed && decide (c.armedCd ≤ 1)

/-- A post countdown that the next expiry finds at 0. -/
def Context.fires (c : Context) : Bool := c.phase == .posted && c.postCd == 0 && !c.due

/-- The ACTIVE context before the playback step of the next expiry: after the countdowns and the splice. -/
def State.beforePlayback (s : State) : Option Context := s.countdowns.splicePart.moves.active

/-- GATHER_EXPIRY (R78, R89). -/
def execGatherExpiry (s : State) : Result := s.moveEvent (s.moves.any Context.gatherEnds)

/-- ARM_EXPIRY (R81). -/
def execArmExpiry (s : State) : Result := s.moveEvent (s.moves.any Context.armedEnds)

/-- MOVE_FIRE (R84). -/
def execMoveFire (s : State) : Result := s.moveEvent (s.moves.any Context.fires)

/-- A fired context whose resume gap count the next step takes from 1 to 0 (R103). -/
def Context.gapEnds (c : Context) : Bool := c.phase.fired && c.gap == 1

/-- The next step takes the rate of a holding context to 0 (R102). -/
def Context.holdEnds (c : Context) : Bool :=
  c.gapPart.phase == .holding && decide (c.gapPart.r ≤ Config.holdStep)

/-- The next step takes the rate of a resuming context to 256 (R102). -/
def Context.resumeEnds (c : Context) : Bool :=
  c.gapPart.phase == .resuming && decide (256 ≤ c.gapPart.r + Config.holdStep)

/-- HOLD_RAMP_END (R102). -/
def execHoldRampEnd (s : State) : Result := s.moveEvent (s.beforePlayback.any Context.holdEnds)

/-- RESUME_RAMP_END (R102). -/
def execResumeRampEnd (s : State) : Result := s.moveEvent (s.beforePlayback.any Context.resumeEnds)

/-- RESUME_GAP_END (R103). -/
def execResumeGapEnd (s : State) : Result := s.moveEvent (s.beforePlayback.any Context.gapEnds)

/-- The step took a context that was fired and not finished into MP_FINISHED. -/
def finishedBetween (before after : Option Context) : Bool :=
  before.any (fun c => c.phase != .finished) && after.any (fun c => c.phase == .finished)

/-- A context already in MP_FINISHED left it for MP_RELEASING, or was discarded with its fade-out at once. -/
def releasedBetween (before after : Option Context) : Bool :=
  before.any (fun c => c.phase == .finished) && !after.any (fun c => c.phase == .finished)

/-- PLAYBACK_FINISH (R97). -/
def execPlaybackFinish (s : State) : Result :=
  s.moveEvent (finishedBetween s.beforePlayback s.moveReaction.moves.active)

/-- DWELL_END (R107). -/
def execDwellEnd (s : State) : Result :=
  s.moveEvent (releasedBetween s.beforePlayback s.moveReaction.moves.active)

/-- FADE_OUT_END (R99): the step discards the ACTIVE context. -/
def execFadeOutEnd (s : State) : Result :=
  s.moveEvent (s.beforePlayback.any (·.phase.fired) && s.moveReaction.moves.active.isNone)

/-! ## Surge unit -/

/-- SURGE_ENTRY_EXPIRY (R62). -/
def execSurgeEntryExpiry (s : State) : Result :=
  whenAble (s.timerRuns && s.surge.window.any (fun c => decide (c.life ≤ 1))) s s.surgeReaction

/-- GRANT_END (R63). -/
def execGrantEnd (s : State) : Result :=
  whenAble (s.timerRuns && s.surge.granted && decide (s.surge.countdown ≤ 1)) s s.surgeReaction

/-! ## Peer table and stick record -/

/-- The next expiry makes a peer entry STALE (R47). -/
def State.entryEnds (s : State) : Bool :=
  allStations.any (fun n => (s.entry n).any (fun e => e.age + 1 == Config.staleAge))

/-- PEER_STALE (R47). -/
def execPeerStale (s : State) : Result := whenAble (s.timerRuns && s.entryEnds) s s.peerReaction

/-- STICK_STALE (R54). -/
def execStickStale (s : State) : Result :=
  whenAble (s.timerRuns && s.peers.stick.any (fun r => r.age + 1 == Config.staleAge)) s s.peerReaction

/-! ## Preset store -/

/-- STORE_TIME_LIMIT (R126). -/
def execStoreTimeLimit (stepFourDone : Bool) (s : State) : Result :=
  whenAble (s.timerRuns && s.store.op.record?.any (fun op => decide (Config.commitLimit ≤ op.elapsed + 1))) s
    (s.storeReaction stepFourDone)

/-! ## Axis state machine -/

/-- The node waits for the brake feedback (R137, R140). -/
def State.brakeWaits (s : State) : Bool :=
  match s.axis.nodeState with
  | .brakeRelease => !s.axis.releaseConfirmed && !s.drive.lines.brakeFb.active
  | .brakeEngage => s.drive.lines.brakeFb.active
  | .starting | .configFault | .braked | .active | .holdPark | .stopping | .stopped | .faulted => false

/-- BRAKE_TIMEOUT (R137, R140). -/
def execBrakeTimeout (s : State) : Result :=
  whenAble (s.timerRuns && s.brakeWaits && decide (s.start.profile.brakeTimeout ≤ s.axis.brakeCount + 1)) s
    s.axisReaction

/-- BRAKE_SETTLE_END (R137). -/
def execBrakeSettleEnd (s : State) : Result :=
  whenAble (s.timerRuns && s.axis.nodeState == .brakeRelease && s.axis.releaseConfirmed &&
    decide (Config.brakeSettle ≤ s.axis.settleCount + 1)) s s.axisReaction

/-! ## The hand-over of the setpoint operation -/

/-- DRIVE_SILENT (R153). -/
def execDriveSilent (s : State) : Result :=
  whenAble (s.timerRuns && becameThree s.drive.silent (judgedSilent s.drive.exchange s.drive.silent)) s
    s.setpointOperation

/-- FOLLOWING_ERROR (R154). -/
def execFollowingError (s : State) : Result :=
  whenAble (s.timerRuns && becameThree s.drive.following
    (judgedFollowing s.start.profile.feLimit s.drive.exchange s.drive.following)) s s.setpointOperation

/-- LINK_STARVED (R169): a STATE placement over an unsent frame takes the owed count to 9. -/
def execLinkStarved (s : State) : Result :=
  whenAble (s.timerRuns && !s.link.stateLane.isEmpty && starvedBetween s.link.owed (owedMore s.link.owed)) s
    s.setpointOperation

/-! ## Interlock lines -/

/-- ESTOP_ACTIVE (R141, R142): the line sampling that makes the ESTOP status active. -/
def execEstopActive (levels : Lines Bool) (s : State) : Result :=
  whenAble (s.timerRuns && (s.sampledLines levels).estop.active && !s.drive.lines.estop.active) s
    (s.lineReaction levels)

/-- DRIVE_FAULT_ACTIVE (R145, R158): the line sampling that makes the DRIVE_FAULT status active. -/
def execDriveFaultActive (levels : Lines Bool) (s : State) : Result :=
  whenAble (s.timerRuns && (s.sampledLines levels).driveFault.active && !s.drive.lines.driveFault.active) s
    (s.lineReaction levels)

end Sys2Proof.Machine
end

