-- ==== Sys2Proof/Machine/Dispatch.lean ====
section
/-! DEFINITION. The dispatch of commands to their meanings, one arm a row of the opcode table. -/

namespace Sys2Proof.Machine

def exec (i : Instr) (s : State) : Host.Outcome State Fault Refusal :=
  match i with
  | .periodExpiry input => Sys2Proof.Machine.execPeriodExpiry input s
  | .gatherExpiry => Sys2Proof.Machine.execGatherExpiry s
  | .armExpiry => Sys2Proof.Machine.execArmExpiry s
  | .moveFire => Sys2Proof.Machine.execMoveFire s
  | .surgeEntryExpiry => Sys2Proof.Machine.execSurgeEntryExpiry s
  | .grantEnd => Sys2Proof.Machine.execGrantEnd s
  | .peerStale => Sys2Proof.Machine.execPeerStale s
  | .stickStale => Sys2Proof.Machine.execStickStale s
  | .holdRampEnd => Sys2Proof.Machine.execHoldRampEnd s
  | .resumeRampEnd => Sys2Proof.Machine.execResumeRampEnd s
  | .resumeGapEnd => Sys2Proof.Machine.execResumeGapEnd s
  | .playbackFinish => Sys2Proof.Machine.execPlaybackFinish s
  | .dwellEnd => Sys2Proof.Machine.execDwellEnd s
  | .fadeOutEnd => Sys2Proof.Machine.execFadeOutEnd s
  | .storeTimeLimit stepFourDone => Sys2Proof.Machine.execStoreTimeLimit stepFourDone s
  | .brakeTimeout => Sys2Proof.Machine.execBrakeTimeout s
  | .brakeSettleEnd => Sys2Proof.Machine.execBrakeSettleEnd s
  | .driveSilent => Sys2Proof.Machine.execDriveSilent s
  | .followingError => Sys2Proof.Machine.execFollowingError s
  | .linkStarved => Sys2Proof.Machine.execLinkStarved s
  | .powerOnReset straps stepFourDone => Sys2Proof.Machine.execPowerOnReset straps stepFourDone s
  | .resetLine edge => Sys2Proof.Machine.execResetLine edge s
  | .profileDecision answered => Sys2Proof.Machine.execProfileDecision answered s
  | .slotCheckEnd => Sys2Proof.Machine.execSlotCheckEnd s
  | .startingEnd last => Sys2Proof.Machine.execStartingEnd last s
  | .driveAnswer number position ready => Sys2Proof.Machine.execDriveAnswer number position ready s
  | .storeCompletion good => Sys2Proof.Machine.execStoreCompletion good s
  | .estopActive levels => Sys2Proof.Machine.execEstopActive levels s
  | .driveFaultActive levels => Sys2Proof.Machine.execDriveFaultActive levels s
  | .lineIdle others => Sys2Proof.Machine.execLineIdle others s
  | .frameDeparture => Sys2Proof.Machine.execFrameDeparture s
  | .frameUnacknowledged => Sys2Proof.Machine.execFrameUnacknowledged s
  | .halt rx cause => Sys2Proof.Machine.execHalt rx cause s
  | .surge rx => Sys2Proof.Machine.execSurge rx s
  | .arm rx tag moveId slot targets splice => Sys2Proof.Machine.execArm rx tag moveId slot targets splice s
  | .join rx moveId => Sys2Proof.Machine.execJoin rx moveId s
  | .go rx tag moveId lead => Sys2Proof.Machine.execGo rx tag moveId lead s
  | .hold rx tag moveId => Sys2Proof.Machine.execHold rx tag moveId s
  | .resume rx tag moveId => Sys2Proof.Machine.execResume rx tag moveId s
  | .release rx tag moveId => Sys2Proof.Machine.execRelease rx tag moveId s
  | .cancel rx tag moveId => Sys2Proof.Machine.execCancel rx tag moveId s
  | .stick rx enable channels => Sys2Proof.Machine.execStick rx enable channels s
  | .stateArrival rx report => Sys2Proof.Machine.execStateArrival rx report s
  | .descriptorArrival rx page content => Sys2Proof.Machine.execDescriptorArrival rx page content s
  | .query head page => Sys2Proof.Machine.execQuery head page s
  | .capture head dur easing => Sys2Proof.Machine.execCapture head dur easing s
  | .undo head => Sys2Proof.Machine.execUndo head s
  | .editClear head => Sys2Proof.Machine.execEditClear head s
  | .commit head slot autoRelease protect fIn fOut dwell sTrim => Sys2Proof.Machine.execCommit head slot autoRelease protect fIn fOut dwell sTrim s
  | .delete head slot => Sys2Proof.Machine.execDelete head slot s
  | .unprotect head slot => Sys2Proof.Machine.execUnprotect head slot s
  | .gotoStart head slot => Sys2Proof.Machine.execGotoStart head slot s
  | .park head mode => Sys2Proof.Machine.execPark head mode s
  | .unpark head => Sys2Proof.Machine.execUnpark head s
  | .clear head => Sys2Proof.Machine.execClear head s
  | .restart head straps => Sys2Proof.Machine.execRestart head straps s

end Sys2Proof.Machine
end

