-- ==== Sys2Proof/Machine/Step.lean ====
section
/-! DEFINITION. One step: the command at the front of the queue, or with none the node's own background. -/

namespace Sys2Proof.Machine

/-- One step: the oldest waiting command takes effect on the state with the queue's rest. With no command waiting,
the start-up slot check decides one slot, and but for that the node idles (log entry 6). -/
def step (s : State) : Host.Outcome State Fault Refusal :=
  match s.pending with
  | [] => .next s.background
  | c :: rest => exec c { s with pending := rest }

/-- The command a table word spells, put at the front of the queue; the state unchanged where it spells none, and
no row of the table has bits (log entry 4). -/
def State.withFetchWord (s : State) (nbits w : Nat) : State :=
  match decodeTableWord nbits w with
  | some c => { s with pending := c :: s.pending }
  | none => s

end Sys2Proof.Machine
end

