-- ==== Sys2Proof/Safety.lean ====
section
/-! DEFINITION. What a safe node is: the laws of the part that hold at every moment, as invariants of the state, and
the plain notions statements use. -/

namespace Sys2Proof.Machine

/-! ## Axis and limiter -/

/-- Brake command and drive enable stand as the table of 8.1 has them for the node state (R133). -/
abbrev State.outputsFit (s : State) : Prop :=
  s.axis.brakeReleased = s.axis.nodeState.brakeReleased ∧ s.axis.driveEnable = s.axis.nodeState.driveEnable

/-- The counts and flags of the axis state machine are at rest outside the states that use them (R133). -/
abbrev State.countsFit (s : State) : Prop :=
  (s.axis.nodeState ≠ .brakeRelease ∧ s.axis.nodeState ≠ .brakeEngage →
    s.axis.brakeCount = 0 ∧ s.axis.settleCount = 0) ∧
  (s.axis.nodeState ≠ .holdPark → s.axis.unparkPending = false) ∧
  (s.axis.nodeState ≠ .brakeRelease → s.axis.releaseConfirmed = false) ∧
  (s.axis.nodeState ≠ .starting → s.axis.startFault = false)

/-- v_c and v_prev are 0 in the states without motion (R24). -/
abbrev State.stillFit (s : State) : Prop :=
  s.axis.nodeState.still = true → s.limiter.vc = 0 ∧ s.limiter.vPrev = 0

/-- Contexts exist in NS_ACTIVE alone (R73, R88). -/
abbrev State.contextsFit (s : State) : Prop := s.axis.nodeState ≠ .active → s.moves.none? = true

/-- The values a moving node reads from its profile are in the ranges and the order of R176 and R177. -/
abbrev profileOrdered (p : Profile) : Prop :=
  0 ≤ p.vAxisMax ∧ 0 ≤ p.aLow ∧ p.aLow ≤ p.aHigh ∧ p.aHigh ≤ p.aStop ∧
  (p.role.hasTip = true → 0 ≤ p.lMax ∧ 0 ≤ p.r0 ∧ 0 ≤ p.tTip)

/-- An undecided profile holds the node in NS_STARTING; a node past it and NS_CONFIG_FAULT has an accepted
profile, whose values are in order (R134, R135, R177). -/
abbrev State.startFits (s : State) : Prop :=
  (s.start.status = .reading → s.axis.nodeState = .starting) ∧
  (s.axis.nodeState ≠ .starting ∧ s.axis.nodeState ≠ .configFault → s.start.accepted = true) ∧
  (s.start.accepted = true → profileOrdered s.start.profile)

/-- |v_c| is within V_axis_max (R24). -/
abbrev State.speedFits (s : State) : Prop :=
  s.start.accepted = true → mag s.limiter.vc ≤ s.start.profile.vAxisMax

/-- The axis invariant: the first and the eleventh law of the part, and what keeps them. -/
abbrev AxisSafe (s : State) : Prop :=
  s.outputsFit ∧ s.countsFit ∧ s.stillFit ∧ s.contextsFit ∧ s.startFits ∧ s.speedFits

/-! ## Link -/

/-- The owed count never exceeds 9, and at 9 the latched cause is FC_LINK_STARVED: the tenth law (R169). -/
abbrev OwedSafe (s : State) : Prop :=
  s.link.owed ≤ 9 ∧ (s.link.owed = 9 → s.axis.cause = .linkStarved)

/-- No lane holds more than its capacity, its frame on the line counted but for STATE (R165, R168). -/
abbrev LanesSafe (s : State) : Prop := ∀ k ∈ Lane.all, s.link.load k ≤ k.capacity

/-! ## Surge unit -/

/-- At most four claims, each with a life of 1..40, and a grant with 1..25 periods left: the fourth law (R63). -/
abbrev SurgeSafe (s : State) : Prop :=
  s.surge.window.length ≤ 4 ∧ (∀ c ∈ s.surge.window, 1 ≤ c.life ∧ c.life ≤ 40) ∧
  (s.surge.status = .granted → 1 ≤ s.surge.countdown ∧ s.surge.countdown ≤ 25) ∧
  (s.surge.status ≠ .granted → s.surge.countdown = 0)

/-! ## Preset store -/

/-- The keyframes of an edit buffer: placed, the first without motion, the later ones with theirs (R121). -/
abbrev bufferFits (b : List Keyframe) : Prop :=
  b.length ≤ 24 ∧ (∀ k ∈ b.head?, k.placed = true ∧ k.motion = none) ∧ (∀ k ∈ b.tail, k.later = true)

/-- The record a slot holds is well-formed. -/
def Slot.fits : Slot → Bool
  | .held p => p.wellFormed
  | .empty | .writing | .erasing | .invalid => true

/-- The record an operation writes is well-formed. -/
def StoreOp.fits : StoreOp → Bool
  | .writing _ p => p.wellFormed
  | .idle | .checking _ | .erasing _ | .locked => true

/-- The ninth law (R125), with the records on their way into slots. -/
abbrev StoreSafe (s : State) : Prop :=
  bufferFits s.store.buffer ∧ (∀ k : Fin 48, s.store.slots[k].fits = true) ∧ s.store.op.fits = true

/-! ## Move engine -/

/-- One context: a well-formed preset copy, weight within 0..256, timeline within 0..total (R99), and a finished
one stands at its total (R97). -/
abbrev Context.fits (c : Context) : Prop :=
  c.preset.wellFormed = true ∧ c.w ≤ 256 ∧ c.w0 ≤ 256 ∧ c.wFloor ≤ 256 ∧ c.r ≤ 256 ∧ c.t ≤ c.preset.total ∧
  (c.phase = .finished → c.t = c.preset.total)

/-- The PENDING place is held only beside a playing ACTIVE context, or a finished one with the PENDING context due:
the sixth law (5.1). -/
abbrev Moves.placesFit (m : Moves) : Prop :=
  ∀ p ∈ m.pending, p.phase.fired = false ∧
    ∃ a ∈ m.active, a.phase.playing = true ∨ (a.phase = .finished ∧ p.due = true)

/-- The contexts' numbers are below the next one and differ. -/
abbrev Moves.serialsFit (m : Moves) : Prop :=
  (∀ a ∈ m.active, a.serial < m.nextSerial) ∧ (∀ p ∈ m.pending, p.serial < m.nextSerial) ∧
  (∀ a ∈ m.active, ∀ p ∈ m.pending, a.serial ≠ p.serial)

/-- The move engine's invariant: the fifth and the sixth law, over a store whose slots hold well-formed records. -/
abbrev MovesSafe (s : State) : Prop :=
  (∀ a ∈ s.moves.active, a.fits) ∧ (∀ p ∈ s.moves.pending, p.fits) ∧ s.moves.placesFit ∧
  s.moves.handOver.w ≤ 256 ∧ s.moves.handOver.sTrim ≤ 256

/-! ## Notions of statements -/

/-- A quiet expiry: no line becomes active at this sampling, and neither a report of the hand-over (R153, R154, R169) nor a
brake timeout (R137, R140) is due. -/
abbrev State.quiet (s : State) (levels : Lines Bool) : Prop :=
  ((s.sampledLines levels).estop.active = true → s.drive.lines.estop.active = true) ∧
  ((s.sampledLines levels).driveFault.active = true → s.drive.lines.driveFault.active = true) ∧
  s.drive.silent < 2 ∧ s.drive.following < 2 ∧ s.link.owed < 8 ∧
  s.axis.brakeCount + 1 < s.start.profile.brakeTimeout

/-- A frame's loopback is awaited no more, and nothing else has changed. -/
def State.heard (s : State) : State := { s with link := { s.link with departed := none } }

end Sys2Proof.Machine
end

