-- ==== Sys2Proof/Certificates/Slice0/Obligations.lean ====
section
/-! DEFINITION. The statements for the provers, taken from the numbered rules of spec/. `s.heard` is the state after
a frame's arrival with no effect of its own. -/

open Sys2Proof Sys2Proof.Machine

/-! ## The machine as a whole -/

/-- A step takes the command at the front of the queue and runs it on the state with the queue's rest. The rest is the
model's own choice (log entry 6): with no command waiting, the start-up slot check decides its next slot, and a node whose
check is over idles. -/
def Obligations.StepRunsFrontCommand : Prop :=
  (∀ (c : Instr) (rest : List Instr) (s : State),
    step { s with pending := c :: rest } = exec c { s with pending := rest }) ∧
  (∀ s : State, s.pending = [] → (∀ k, s.store.op ≠ .checking k) → step s = .next s) ∧
  (∀ (s : State) (k : Nat) (h : k < 47), s.pending = [] → s.store.op = .checking k → s.live = true →
    step s = .next { s with store := { s.store with
      slots := s.store.slots.set k (decidedSlot s.store.regions[k]), op := .checking (k + 1) } })

/-- Every command, in every state, answers a next state that keeps the rest of the queue. -/
def Obligations.EveryCommandCompletesAndKeepsTheQueue : Prop :=
  ∀ (c : Instr) (s : State), ∃ t, exec c s = .next t ∧ t.pending = s.pending

/-! ## Starts -/

/-- What a power-on reset leaves (R43, R56, R69, R91, R119, R132, R134, R156, R159, R172, R179, R180): every block at its
reset values, every slot INVALID until its check, no line sampled. -/
def Obligations.PowerOnGivesEveryBlockItsResetValues : Prop :=
  ∀ (straps : Station) (b : Bool) (s : State), s.start.resetHeld = false →
    ∃ t, exec (.powerOnReset straps b) s = .next t ∧ t.pending = s.pending ∧
      t.start.station = straps ∧ t.start.status = .reading ∧ t.start.failing = none ∧
      t.start.image = List.replicate 56 0 ∧
      t.link = { haltLane := [], surgeLane := [], cueLane := [], stateLane := [], serviceLane := [], onLine := none,
                 departed := none, owed := 0, echo := none } ∧
      (∀ n, t.entry n = none) ∧ t.peers.stick = none ∧ t.blend.F = 0 ∧ t.limiter = ⟨0, 0, 0⟩ ∧
      t.surge = ⟨[], .none, 0⟩ ∧ t.moves.active = none ∧ t.moves.pending = none ∧ t.moves.lastAbandon = none ∧
      t.store.buffer = [] ∧ t.store.op = .checking 0 ∧ (∀ k : Fin 48, t.store.slots[k] = .invalid) ∧
      (b = false → t.store.regions = s.store.regions) ∧
      t.axis = { nodeState := .starting, haltLatch := false, cause := .none, brakeReleased := false,
                 driveEnable := false, brakeCount := 0, settleCount := 0, unparkPending := false,
                 releaseConfirmed := false, startFault := false } ∧
      t.drive = { exchange := none, actual := none, silent := 0, following := 0
                  lines := ⟨⟨none, false⟩, ⟨none, false⟩, ⟨none, false⟩, ⟨none, false⟩, ⟨none, false⟩⟩ }

/-- The reset line (R180, R173): taken, it leaves a node that does nothing whatever comes (log entry 5), in its reset values
already while it is held (the model's choice, log entry 37), and its release begins the start with the straps read, whatever
stood before it (log entry 26). -/
def Obligations.ResetLineHoldsAndReleases : Prop :=
  (∀ s : State, ∃ t, exec (.resetLine (.held false)) s = .next t ∧ t.live = false ∧ t.start.resetHeld = true ∧
    t.axis = Axis.reset ∧ t.link = Link.reset ∧ t.store.regions = s.store.regions ∧ t.pending = s.pending) ∧
  (∀ (s : State) (c : Instr), s.start.resetHeld = true → (∀ a b, c ≠ .powerOnReset a b) → (∀ e, c ≠ .resetLine e) →
    exec c s = .next s) ∧
  (∀ (s : State) (straps : Station), ∃ t, exec (.resetLine (.released straps false)) s = .next t ∧ t.live = true ∧
    t.start.station = straps ∧ t.start.status = .reading ∧ t.axis = Axis.reset ∧ t.link = Link.reset ∧
    t.store.op = .checking 0 ∧ t.store.regions = s.store.regions ∧ t.pending = s.pending)

/-- The profile decision while another condition of NS_STARTING is open: status, failing field, image copy (a field the
read did not reach whole is 0, log entry 17) and, when accepted, the blocks' values; nothing else changes. And the
judgement (R177): UNREADABLE, BLANK, CHECK_FAILED, OUT_OF_RANGE with the first field that fails, ACCEL_ORDER, LIMIT_ORDER,
OWN_SOURCE with its field, ESTOP_MASKED, else GOOD, in this order; a GOOD profile has every value in its range (R176). -/
def Obligations.ProfileDecisionSetsTheProfile : Prop :=
  (∀ (answered : List Byte) (s : State) (k : Nat), s.live = true → s.start.status = .reading →
    s.store.op = .checking k →
    exec (.profileDecision answered) s = .next { s with start := { s.start with
      status := (judgeProfile answered s.start.station).1
      failing := (judgeProfile answered s.start.station).2
      image := imageCopy answered
      profile := if (judgeProfile answered s.start.station).1 = .good then readProfile (imageCopy answered)
                 else s.start.profile } }) ∧
  (∀ (answered : List Byte) (n : Station),
    let img := answered.take 56
    let p := readProfile img
    let judged := judgeProfile answered n
    (answered.length < 56 → judged = (.unreadable, none)) ∧
    (56 ≤ answered.length → (∀ b ∈ img, b = 0xFF) → judged = (.blank, none)) ∧
    (56 ≤ answered.length → (∃ b ∈ img, b ≠ 0xFF) →
      (bytes32 (crc32 (img.take 52)) ≠ img.drop 52 → judged = (.checkFailed, none)) ∧
      (bytes32 (crc32 (img.take 52)) = img.drop 52 →
        (∀ before off after, rangeTests img = before ++ (off, false) :: after → (∀ x ∈ before, x.2 = true) →
          judged = (.outOfRange, some off)) ∧
        ((∀ x ∈ rangeTests img, x.2 = true) →
          (p.aHigh < p.aLow ∨ p.aStop < p.aHigh → judged = (.accelOrder, none)) ∧
          (p.aLow ≤ p.aHigh → p.aHigh ≤ p.aStop →
            (p.pMax ≤ p.pMin → judged = (.limitOrder, none)) ∧
            (p.pMin < p.pMax →
              (p.followSource = some n → judged = (.ownSource, some 40)) ∧
              (p.followSource ≠ some n → p.role.hasTip = true → p.extSource = some n →
                judged = (.ownSource, some 43)) ∧
              (p.followSource ≠ some n → (p.role.hasTip = true → p.extSource ≠ some n) →
                judged = if p.mask.estop = true then (.estopMasked, none) else (.good, none))))))) ∧
    (judged.1 = .good →
      (byteAt img 0).toNat ≤ 5 ∧ |p.pMin| ≤ 4000000 ∧ |p.pMax| ≤ 4000000 ∧
      (p.role.hasTip = true → 0 ≤ p.lMax ∧ p.lMax ≤ 4000000 ∧ 1 ≤ p.r0 ∧ p.r0 ≤ 2000000 ∧ 1 ≤ p.tTip ∧ p.tTip ≤ 2000 ∧
        ((byteAt img 43).toNat < 16 ∨ byteAt img 43 = 0xFF)) ∧
      1 ≤ p.vAxisMax ∧ p.vAxisMax ≤ 262143 ∧ 1 ≤ p.vs ∧ p.vs ≤ p.vAxisMax ∧ 1 ≤ p.vApproach ∧ p.vApproach ≤ p.vAxisMax ∧
      1 ≤ p.aLow ∧ p.aStop ≤ 65535 ∧ 0 ≤ p.deadband ∧ p.deadband ≤ 255 ∧ (byteAt img 38).toNat ≤ 1 ∧
      ((byteAt img 39).toNat < 16 ∨ byteAt img 39 = 0xFF) ∧ ((byteAt img 40).toNat < 16 ∨ byteAt img 40 = 0xFF) ∧
      |p.rf| ≤ 512 ∧ 1 ≤ p.feLimit ∧ 1 ≤ p.brakeTimeout ∧ p.brakeTimeout ≤ 500 ∧
      (byteAt img 50).toNat < 32 ∧ (byteAt img 51).toNat < 32))

/-- The end of the slot check while the profile is undecided (R119): each slot it had not yet decided takes the status its
region gives, the others stand, and the store is IDLE. A region erased throughout gives EMPTY, a complete one with a
well-formed record under its check that record's slot, anything else INVALID: an incomplete marker, a marker erased beside
a record, and a complete one whose bytes are no well-formed record followed by its check. That an erased area is the empty
list, and that record and check fill a region's bytes exactly, are the model's (log entries 18 and 34). -/
def Obligations.SlotCheckEndDecidesTheRest : Prop :=
  (∀ (s : State) (k : Nat), s.live = true → s.store.op = .checking k → s.start.status = .reading →
    ∃ t, exec .slotCheckEnd s = .next t ∧ t.store.op = .idle ∧
      (∀ n : Fin 48, t.store.slots[n] = if k ≤ n.val then decidedSlot s.store.regions[n] else s.store.slots[n]) ∧
      t = { s with store := { s.store with slots := t.store.slots, op := .idle } }) ∧
  decidedSlot ⟨.erased, []⟩ = .empty ∧
  (∀ p : Preset, p.wellFormed = true → decidedSlot ⟨.complete, p.checkedBytes⟩ = .held p) ∧
  (∀ bs, (∀ p : Preset, p.wellFormed = true → bs ≠ p.bytes ++ bytes32 (crc32 p.bytes)) →
    decidedSlot ⟨.complete, bs⟩ = .invalid) ∧
  (∀ bs, decidedSlot ⟨.incomplete, bs⟩ = .invalid) ∧ (∀ bs, bs ≠ [] → decidedSlot ⟨.erased, bs⟩ = .invalid) ∧
  (∀ bs p, decidedSlot ⟨.complete, bs⟩ = .held p → p.wellFormed = true ∧ bs = p.checkedBytes)

/-- NS_STARTING ends at the event that completes its last condition (R134; that the row is the event of its operand is log
entry 1): a refused profile gives NS_CONFIG_FAULT (R135), whether the decision or the slot check comes last, an accepted
one NS_BRAKED, or NS_FAULTED with the start fault set, at the slot check's end or the first drive answer taken, in time or
late. -/
def Obligations.StartingEndsByItsLastCondition : Prop :=
  ∀ s : State, s.live = true → s.axis.nodeState = .starting →
    (∀ answered, s.start.status = .reading → s.store.op = .idle →
      (judgeProfile answered s.start.station).1 ≠ .good →
      ∃ t, exec (.startingEnd (.profileDecision answered)) s = .next t ∧ t.axis.nodeState = .configFault ∧
        (s.link.owed < 9 → t.axis.cause = .config) ∧ t.link = s.link ∧ t.peers = s.peers ∧ t.blend = s.blend ∧
        t.moves = s.moves ∧ t.store = s.store ∧ t.drive = s.drive ∧ t.axis.haltLatch = s.axis.haltLatch) ∧
    (∀ k, s.start.status ≠ .reading → s.start.status ≠ .good → s.store.op = .checking k →
      ∃ t, exec (.startingEnd .slotCheckEnd) s = .next t ∧ t.store.op = .idle ∧ t.axis.nodeState = .configFault ∧
        (s.link.owed < 9 → t.axis.cause = .config) ∧
        (s.link.owed = 9 → s.axis.cause = .linkStarved → t.axis.cause = .linkStarved) ∧ t.link = s.link ∧
        t.peers = s.peers ∧ t.blend = s.blend ∧ t.moves = s.moves ∧ t.drive = s.drive ∧ t.start = s.start ∧
        t.axis.haltLatch = s.axis.haltLatch) ∧
    (∀ k, s.start.status = .good → s.store.op = .checking k → s.drive.actual.isSome = true →
      ∃ t, exec (.startingEnd .slotCheckEnd) s = .next t ∧ t.store.op = .idle ∧ t.axis.cause = s.axis.cause ∧
        t.axis.nodeState = (if s.axis.startFault = true then .faulted else .braked) ∧ t.link = s.link ∧
        t.peers = s.peers ∧ t.blend = s.blend ∧ t.moves = s.moves ∧ t.drive = s.drive ∧ t.start = s.start ∧
        t.axis.haltLatch = s.axis.haltLatch) ∧
    (∀ e number pos ready, s.start.status = .good → s.store.op = .idle → s.drive.exchange = some e →
      (number = e.number ∨ number + 1 = e.number) →
      ∃ t, exec (.startingEnd (.driveAnswer number pos ready)) s = .next t ∧ t.drive.actual = some pos ∧
        t.axis.cause = s.axis.cause ∧
        t.axis.nodeState = (if s.axis.startFault = true then .faulted else .braked) ∧ t.link = s.link ∧
        t.peers = s.peers ∧ t.blend = s.blend ∧ t.moves = s.moves ∧ t.store = s.store ∧ t.start = s.start ∧
        t.axis.haltLatch = s.axis.haltLatch)

/-! ## Drive and lines -/

/-- A drive answer against the exchange record (R152), in every node state: in time it fills the actual-position copy and
settles an AWAITING outcome, late it fills the copy, with any other number or no record it is ignored; and it is the
drive-heard condition of NS_STARTING. -/
def Obligations.DriveAnswerByNumberAndOutcome : Prop :=
  ∀ (s : State) (number : Byte) (pos : Int) (ready : Bool), s.live = true →
    ∃ t, exec (.driveAnswer number pos ready) s = .next t ∧
      (s.axis.nodeState ≠ .starting → t = { s with drive := t.drive }) ∧
      (s.drive.exchange = none → t.drive = s.drive) ∧
      (∀ e, s.drive.exchange = some e →
        (number = e.number → e.outcome = .awaiting → t.drive = { s.drive with
          actual := some pos
          exchange := some { e with outcome := if ready = true then .answered pos else .notReady } }) ∧
        (number = e.number → e.outcome ≠ .awaiting → t.drive = { s.drive with actual := some pos }) ∧
        (number + 1 = e.number → t.drive = { s.drive with actual := some pos }) ∧
        (number ≠ e.number → number + 1 ≠ e.number → t.drive = s.drive) ∧
        (number = e.number ∨ number + 1 = e.number → s.axis.nodeState = .starting → s.start.accepted = true →
          s.store.op = .idle → t.axis.nodeState ≠ .starting))

/-- The ESTOP status becoming active, with no other line changing (R141, R142; the row as the line sampling's whole
reaction is log entry 1): the halt latch set, every context discarded, NS_STOPPING from a moving state, and a HALT frame in
an empty HALT lane. -/
def Obligations.EstopActivationHaltsAndSendsHalt : Prop :=
  ∀ (s : State) (levels : Lines Bool), s.timerRuns = true → (s.sampledLines levels).estop.active = true →
    s.drive.lines.estop.active = false →
    ((s.sampledLines levels).driveFault.active = true → s.drive.lines.driveFault.active = true) →
    ∃ t, exec (.estopActive levels) s = .next t ∧ t.axis.haltLatch = true ∧ t.axis.cause = s.axis.cause ∧
      t.drive = { s.drive with lines := s.sampledLines levels } ∧ t.moves.none? = true ∧
      (s.link.load .halt = 0 → t.link.haltLane = [plain (.halt .estopLine)]) ∧
      (s.link.load .halt = 1 → t.link.haltLane = s.link.haltLane) ∧
      (s.axis.nodeState = .active ∨ s.axis.nodeState = .holdPark →
        t.axis.nodeState = (if s.limiter.vc = 0 then .stopped else .stopping)) ∧
      (s.axis.nodeState = .brakeRelease → s.limiter.vc = 0 → t.axis.nodeState = .stopped) ∧
      (s.axis.nodeState ≠ .active → s.axis.nodeState ≠ .holdPark → s.axis.nodeState ≠ .brakeRelease →
        t.axis.nodeState = s.axis.nodeState) ∧
      t.limiter.S = s.limiter.S ∧ t.surge.window = s.surge.window ∧ t.link.echo = s.link.echo ∧
      t.link.owed = s.link.owed ∧ t.peers = s.peers ∧ t.blend = s.blend ∧ t.store = s.store ∧ t.start = s.start

/-- The DRIVE_FAULT status becoming active, with ESTOP unchanged (R145, R146; the row as the line sampling's whole reaction
is log entry 1): outside NS_STARTING, NS_CONFIG_FAULT and NS_FAULTED the node enters NS_FAULTED, brake engaged, drive off,
at rest, its contexts discarded. A cause that stood at FC_NONE or FC_STATION_CLASH becomes FC_DRIVE_FAULT, and
FC_LINK_STARVED does with the owed count below 9; a faulting cause, and FC_LINK_STARVED at 9, stand. -/
def Obligations.DriveFaultActivationFaultsTheNode : Prop :=
  ∀ (s : State) (levels : Lines Bool), s.timerRuns = true → (s.sampledLines levels).driveFault.active = true →
    s.drive.lines.driveFault.active = false →
    ((s.sampledLines levels).estop.active = true → s.drive.lines.estop.active = true) →
    s.axis.nodeState ≠ .starting → s.axis.nodeState ≠ .configFault → s.axis.nodeState ≠ .faulted →
    ∃ t, exec (.driveFaultActive levels) s = .next t ∧ t.axis.nodeState = .faulted ∧ t.axis.brakeReleased = false ∧
      t.axis.driveEnable = false ∧ t.axis.haltLatch = s.axis.haltLatch ∧ t.axis.brakeCount = 0 ∧
      t.axis.settleCount = 0 ∧ t.axis.unparkPending = false ∧ t.limiter = ⟨s.limiter.S, 0, 0⟩ ∧
      (s.axis.nodeState = .active → t.moves.none? = true) ∧ t.surge.status ≠ .granted ∧
      (s.axis.cause = .none ∨ s.axis.cause = .stationClash → t.axis.cause = .driveFault) ∧
      (s.axis.cause = .driveSilent ∨ s.axis.cause = .following ∨ s.axis.cause = .brakeTimeout →
        t.axis.cause = s.axis.cause) ∧
      (s.axis.cause = .linkStarved → t.axis.cause = if s.link.owed < 9 then .driveFault else .linkStarved) ∧
      t.store = s.store ∧ t.peers = s.peers ∧ t.blend = s.blend ∧ t.start = s.start

/-! ## The period expiry and the timed events -/

/-- A period expiry makes one reaction of each block, in whatever order its operand gives (log entry 2). Whatever happens at
it: one new exchange with the next number and one STATE frame, every age one more up to 255, every claim's life one less,
every line sampled once through its filter, an operation in flight one period older, and the setpoint tracked in the
states that track (R23, R39, R41, R47, R54, R62, R126, R151, R157). With no report due and no line becoming active
(`State.quiet`) the setpoint is held in the states that hold (R42), a gather counts down (R78), a timed event of the move
engine that needs no peer comes about (R78, R81, R99, R102, R107), an unpark pending takes effect (R138), and the brake
sequences take their feedback and count (R137, R140). The setpoint operation hands over the
values it wrote, in the exchange and in the STATE frame, with the other blocks' fields as they stand (R39, R71, R151). -/
def Obligations.PeriodExpiryReactsOncePerBlock : Prop :=
  (∀ (s : State) (input : ExpiryInput), s.timerRuns = true →
    ∃ t e r, exec (.periodExpiry input) s = .next t ∧ t.drive.exchange = some e ∧
      t.link.stateLane = [plain (.state r)] ∧
      e.number = nextNumber s.drive.exchange ∧ e.outcome = .awaiting ∧ e.tracking = r.nodeState.tracks ∧
      r.setpoint = e.setpoint / 256 ∧ r.velocity = e.feedForward ∧
      r.ownPos = clampFine (e.setpoint - t.blend.F) / 256 ∧ r.role = s.reportedRole ∧ r.owed = t.link.owed ∧
      (s.moves.none? = true →
        r.report = s.moves.lastAbandon.map .abandoned ∧ r.parts = none ∧ r.timeline = none) ∧
      (∀ n, (t.entry n).map (·.age) = (s.entry n).map (fun x => min (x.age + 1) 255)) ∧
      t.peers.stick.map (·.age) = s.peers.stick.map (fun x => min (x.age + 1) 255) ∧
      t.surge.window = (s.surge.window.filter (fun c => decide (2 ≤ c.life))).map
        (fun c => ⟨c.src, c.life - 1⟩) ∧
      t.drive.lines = s.sampledLines input.levels ∧
      (s.start.accepted = true → s.start.profile.mask.estop = false →
        let x := decide (input.levels.estop = s.start.profile.polarity.estop)
        t.drive.lines.estop =
          ⟨some x, if s.drive.lines.estop.sample = some x then x else s.drive.lines.estop.active⟩) ∧
      (s.start.accepted = true → s.start.profile.mask.limitPos = true →
        t.drive.lines.limitPos = s.drive.lines.limitPos) ∧
      (s.start.accepted = false → t.drive.lines.brakeFb = s.drive.lines.brakeFb) ∧
      (∀ op p, s.store.op = .writing op p → op.elapsed < 249 →
        t.store.op = .writing { op with elapsed := op.elapsed + 1 } p) ∧
      (∀ op, s.store.op = .erasing op → op.elapsed < 249 →
        t.store.op = .erasing { op with elapsed := op.elapsed + 1 }) ∧
      (s.axis.nodeState.tracks = true →
        t.limiter = ⟨match s.drive.actual with
          | some p => max (-1024000000) (min 1024000000 (256 * p))
          | none => s.limiter.S, 0, 0⟩ ∧
        e.setpoint = t.limiter.S ∧ e.feedForward = 0 ∧ e.tracking = true) ∧
      (s.quiet input.levels →
        (s.axis.nodeState = .stopped ∨ (s.axis.nodeState = .brakeRelease ∧ s.axis.settleCount < 24) →
          t.limiter = ⟨s.limiter.S, 0, 0⟩ ∧ e.setpoint = s.limiter.S ∧ e.feedForward = 0 ∧ e.tracking = false ∧
          e.enable = s.axis.driveEnable) ∧
        (∀ c, s.moves.active = some c → s.moves.pending = none → c.phase = .gather → 2 ≤ c.gatherCd →
          t.moves = { s.moves with
            active := some { c with gatherCd := c.gatherCd - 1 }, handOver := ⟨0, c.preset.sTrim, 0⟩ }) ∧
        (∀ c u, ∀ i ∈ [Instr.gatherExpiry, .armExpiry, .holdRampEnd, .dwellEnd, .fadeOutEnd],
          s.moves.active = some c → s.moves.pending = none →
          c.phase ∉ [Phase.posted, .running, .resuming] → exec i s = .next u → u ≠ s → t.moves = u.moves) ∧
        (s.axis.nodeState = .holdPark → s.axis.unparkPending = true →
          t.axis.nodeState = .active ∧ t.axis.unparkPending = false ∧ t.axis.haltLatch = s.axis.haltLatch ∧
          t.axis.cause = s.axis.cause) ∧
        (s.axis.nodeState = .brakeRelease → s.axis.releaseConfirmed = false → s.drive.lines.brakeFb.active = true →
          (s.sampledLines input.levels).brakeFb.active = true →
          t.axis = { s.axis with releaseConfirmed := true }) ∧
        (s.axis.nodeState = .brakeRelease → s.axis.releaseConfirmed = false → s.drive.lines.brakeFb.active = false →
          (s.sampledLines input.levels).brakeFb.active = false →
          t.axis = { s.axis with brakeCount := s.axis.brakeCount + 1 }) ∧
        (s.axis.nodeState = .brakeRelease → s.axis.releaseConfirmed = true → s.axis.settleCount < 24 →
          t.axis = { s.axis with settleCount := s.axis.settleCount + 1 }) ∧
        (s.axis.nodeState = .brakeEngage → s.drive.lines.brakeFb.active = false →
          (s.sampledLines input.levels).brakeFb.active = false →
          t.axis.nodeState = .braked ∧ t.axis.driveEnable = false ∧ t.axis.brakeReleased = false ∧
          t.axis.brakeCount = 0))) ∧
  (∀ s : State, ∃ r, s.setpointOperation.link.stateLane = [plain (.state r)] ∧
    s.setpointOperation.drive.exchange = some
      { number := nextNumber s.drive.exchange, setpoint := s.operate.limiter.S, feedForward := s.operate.limiter.vc
        enable := s.axis.driveEnable, tracking := s.axis.nodeState.tracks, outcome := .awaiting } ∧
    r.setpoint = s.operate.limiter.S / 256 ∧ r.velocity = s.operate.limiter.vc ∧
    r.ownPos = s.operate.ownPos / 256 ∧ r.nodeState = s.axis.nodeState ∧ r.cause = s.axis.cause ∧
    r.role = s.reportedRole ∧ r.lastResult = s.link.echo ∧ r.surgeGranted = decide (s.surge.status = .granted) ∧
    ((∃ x, s.peers.stick = some x ∧ x.age ≤ 8) → r.stickLost = false) ∧
    ((∀ x, s.peers.stick = some x → 9 ≤ x.age) → r.stickLost = true) ∧
    (s.link.stateLane = [] → r.owed = s.link.owed) ∧ (s.link.stateLane ≠ [] → r.owed = min (s.link.owed + 1) 9) ∧
    (∀ c, s.moves.active = some c → r.report = some (.move c.moveId c.phase) ∧ r.parts = some c.parts ∧
      r.timeline = if c.phase.fired = true then some c.t else none) ∧
    (s.moves.active = none →
      r.report = s.moves.lastAbandon.map .abandoned ∧ r.parts = none ∧ r.timeline = none))

/-- The gather expiry and the armed expiry of a lone ACTIVE context (R78, R81): a member's set is frozen in MP_ARMED
with 30000 periods; a node that is no member abandons AB_JOIN_LATE, its JOIN withdrawn where it waits, with a CANCEL where
it went out, with nothing sent where it was dropped; and a context armed too long is abandoned AB_ARM_EXPIRED. The gather
expiry of a PENDING context beside a suspended one (R89): with the same set it is armed, with another it is abandoned
AB_SPLICE_SET and no frame is sent. Nothing else changes: an own JOIN still QUEUED past MP_GATHER stays in its lane (log
entry 31). -/
def Obligations.GatherAndArmedCountdownsEnd : Prop :=
  (∀ (s : State) (c : Context), s.timerRuns = true → s.moves.active = some c → s.moves.pending = none →
    (c.phase = .gather → c.gatherCd = 1 → c.parts.has s.start.station = true →
      exec .gatherExpiry s = .next { s with moves := { s.moves with
        active := some { c with phase := .armed, gatherCd := 0, armedCd := 30000 }
        handOver := ⟨0, c.preset.sTrim, 0⟩ } }) ∧
    (c.phase = .gather → c.gatherCd = 1 → c.parts.has s.start.station = false → c.ownJoin = some .sent →
      s.link.load .cue < 4 →
      exec .gatherExpiry s = .next { s with
        moves := { s.moves with active := none, lastAbandon := some .joinLate, handOver := ⟨0, 0, 0⟩ }
        link := { s.link with cueLane := s.link.cueLane ++ [⟨.cancel none c.moveId, none⟩] } }) ∧
    (c.phase = .gather → c.gatherCd = 1 → c.parts.has s.start.station = false →
      c.ownJoin = some .queued ∨ c.ownJoin = some .dropped →
      exec .gatherExpiry s = .next { s with
        moves := { s.moves with active := none, lastAbandon := some .joinLate, handOver := ⟨0, 0, 0⟩ }
        link := if c.ownJoin = some .queued then s.link.withdrawJoin c.serial else s.link }) ∧
    (c.phase = .armed → c.armedCd = 1 →
      exec .armExpiry s = .next { s with
        moves := { s.moves with active := none, lastAbandon := some .armExpired, handOver := ⟨0, 0, 0⟩ } })) ∧
  (∀ (s : State) (a c : Context), s.timerRuns = true → s.moves.active = some a → s.moves.pending = some c →
    a.phase = .suspended → a.gap = 0 → c.phase = .gather → c.gatherCd = 1 → c.parts.has s.start.station = true →
    (c.parts = a.parts →
      exec .gatherExpiry s = .next { s with moves := { s.moves with
        active := some { a with lam := 256 }
        pending := some { c with phase := .armed, gatherCd := 0, armedCd := 30000 }
        handOver := ⟨a.w, a.preset.sTrim, 0⟩ } }) ∧
    (c.parts ≠ a.parts → c.ownJoin ≠ some .queued →
      exec .gatherExpiry s = .next { s with moves := { s.moves with
        active := some { a with lam := 256 }, pending := none, lastAbandon := some .spliceSet
        handOver := ⟨a.w, a.preset.sTrim, 0⟩ } }))

/-- A post countdown found at 0 fires the ACTIVE context, and playback takes its first step at once (R84, R94, R95,
R98): from t = 0 to 256, with the first fade-in weight and the offset of the first period handed over; with a participant
more than 16 periods apart the move is abandoned AB_DRIFT with a CANCEL (R106). A PENDING context is due at that expiry
(R109, R110): beside an ACTIVE one on a keyframe boundary it takes its place and fires with the old weight as its floor,
and a hold goes over with its phase and rate; one short of a boundary is stopped there. -/
def Obligations.MoveFiresWithItsFirstStep : Prop :=
  (∀ (s : State) (c : Context), s.timerRuns = true → s.moves.active = some c → s.moves.pending = none →
    c.phase = .posted → c.postCd = 0 → c.due = false → c.preset.wellFormed = true →
    (drifted 0 (s.estimates c.fire) = false →
      ∃ d, exec .moveFire s = .next { s with moves := { s.moves with
          active := some d, handOver := ⟨d.w, c.preset.sTrim, c.preset.offset 0 256⟩ } } ∧
        d.t = 256 ∧ d.r = 256 ∧ d.lam = 256 ∧ d.moveId = c.moveId ∧ d.parts = c.parts ∧ d.preset = c.preset ∧
        d.phase = (if c.preset.total = 256 then .finished else .running) ∧
        d.w = (if c.preset.fIn = 0 then 256 else 256 / c.preset.fIn)) ∧
    (drifted 0 (s.estimates c.fire) = true → c.w = 0 → s.link.load .cue < 4 →
      exec .moveFire s = .next { s with
        moves := { s.moves with active := none, lastAbandon := some .drift, handOver := ⟨0, 0, 0⟩ }
        link := { s.link with cueLane := s.link.cueLane ++ [⟨.cancel none c.moveId, none⟩] } })) ∧
  (∀ (s : State) (a c : Context), s.timerRuns = true → s.moves.active = some a → s.moves.pending = some c →
    c.phase = .posted → c.postCd = 0 → c.due = false →
    ((∃ k, 1 ≤ k ∧ k < a.preset.keys.length ∧ a.t = a.preset.bound k) → c.preset.wellFormed = true →
      (a.phase = .running ∨ a.phase = .finished → drifted 0 (s.estimates c.fire) = false →
        ∃ d, exec .moveFire s = .next { s with moves := { s.moves with
            active := some d, pending := none, handOver := ⟨d.w, c.preset.sTrim, c.preset.offset 0 256⟩ } } ∧
          d.t = 256 ∧ d.r = 256 ∧ d.lam = 256 ∧ d.moveId = c.moveId ∧ d.parts = c.parts ∧ d.preset = c.preset ∧
          d.releaseAtEnd = c.releaseAtEnd ∧ d.phase = (if c.preset.total = 256 then .finished else .running) ∧
          d.w = max a.w (if c.preset.fIn = 0 then 256 else 256 / c.preset.fIn)) ∧
      (a.phase = .holding → a.gap = 0 → 4 < a.r → a.r ≤ 256 →
        ∃ d, exec .moveFire s = .next { s with moves := { s.moves with
            active := some d, pending := none, handOver := ⟨d.w, c.preset.sTrim, c.preset.offset 0 (a.r - 4)⟩ } } ∧
          d.t = a.r - 4 ∧ d.r = a.r - 4 ∧ d.phase = .holding ∧ d.moveId = c.moveId ∧ d.parts = c.parts ∧
          d.w = (if c.preset.fIn = 0 then 256 else a.w))) ∧
    (a.phase = .running → a.gap = 0 → a.r = 256 → s.estimates a = none → a.preset.wellFormed = true →
      a.k + 2 < a.preset.keys.length → a.preset.bound a.k < a.t → a.t < a.preset.bound (a.k + 1) →
      a.preset.bound (a.k + 1) ≤ a.t + 256 →
      ∃ d, exec .moveFire s = .next { s with moves := { s.moves with
          active := some d, pending := some { c with due := true }
          handOver := ⟨d.w, a.preset.sTrim,
            (a.preset.posAt (a.k + 1) - a.preset.posAt a.k) - a.preset.offset a.k (a.t - a.preset.bound a.k)⟩ } } ∧
        d.t = a.preset.bound (a.k + 1) ∧ d.k = a.k + 1 ∧ d.phase = .running ∧ d.moveId = a.moveId))

/-- The ends of the two ramps (R102): a holding context whose rate reaches 0 is suspended and does not advance; a
resuming one whose rate reaches 256 runs, and the new rate is used by the same step's advance. The end of the resume gap
(R103): a deferred hold is taken and the same step already lowers the rate; with none the ramp goes on. In MP_RUNNING the
step then levels (R105): with every other participant FRESH and running this move, a node more than a period ahead of the
slowest advances 252, any other 256; and with one more than 16 periods apart it abandons AB_DRIFT, makes no advance, takes
the first fade-out step and sends a CANCEL (R106). -/
def Obligations.HoldAndResumeRampsEnd : Prop :=
  ∀ (s : State) (c : Context), s.timerRuns = true → s.moves.active = some c → s.moves.pending = none →
    (c.gap = 0 → c.phase = .holding → c.r = 4 →
      exec .holdRampEnd s = .next { s with moves := { s.moves with
        active := some { c with phase := .suspended, r := 0, lam := 256 }
        handOver := ⟨c.w, c.preset.sTrim, 0⟩ } }) ∧
    (c.gap = 0 → c.phase = .resuming → c.r = 252 → c.t + 256 < c.preset.total →
      drifted c.t (s.estimates { c with r := 256, phase := .running }) = false →
      ∃ d, exec .resumeRampEnd s = .next { s with moves := { s.moves with
          active := some d, handOver := ⟨d.w, c.preset.sTrim, c.preset.contribution c.k c.t d.k d.t⟩ } } ∧
        d.phase = .running ∧ d.r = 256 ∧ d.lam = levelFactor c.t (s.estimates { c with r := 256, phase := .running }) ∧
        d.t = c.t + d.lam ∧ d.k = c.preset.segIndex d.t) ∧
    (c.phase = .resuming → c.gap = 1 → 4 < c.r → c.r < 252 → c.t + 256 < c.preset.total →
      ∃ d, exec .resumeGapEnd s = .next { s with moves := { s.moves with
          active := some d
          handOver := ⟨c.w, c.preset.sTrim, c.preset.contribution c.k c.t d.k d.t⟩ } } ∧
        d.gap = 0 ∧ d.deferred = false ∧ d.w = c.w ∧ d.k = c.preset.segIndex d.t ∧
        d.phase = (if c.deferred = true then .holding else .resuming) ∧
        d.r = (if c.deferred = true then c.r - 4 else c.r + 4) ∧ d.t = c.t + d.r) ∧
    (∀ tl : Station → Nat, c.phase = .running → c.gap = 1 → c.deferred = false → c.r = 256 → c.kind = .joint →
      (∀ n, c.parts.has n = true → n ≠ s.start.station → ∃ e, s.entry n = some e ∧ e.age ≤ 8 ∧
        e.report = some (.move c.moveId .running) ∧ ∃ x, e.timeline = some x ∧ tl n = x + 256 * e.age) →
      ((∀ n, c.parts.has n = true → n ≠ s.start.station → tl n ≤ c.t + 4096 ∧ c.t ≤ tl n + 4096) →
        c.t + 256 < c.preset.total →
        ∃ d, exec .resumeGapEnd s = .next { s with moves := { s.moves with
            active := some d, handOver := ⟨d.w, c.preset.sTrim, c.preset.contribution c.k c.t d.k d.t⟩ } } ∧
          d.phase = .running ∧ d.gap = 0 ∧ d.r = 256 ∧ d.t = c.t + d.lam ∧ d.k = c.preset.segIndex d.t ∧
          ((∃ n, c.parts.has n = true ∧ n ≠ s.start.station ∧ tl n + 256 < c.t) → d.lam = 252) ∧
          ((∀ n, c.parts.has n = true → n ≠ s.start.station → c.t ≤ tl n + 256) → d.lam = 256)) ∧
      ((∃ n, c.parts.has n = true ∧ n ≠ s.start.station ∧ (c.t + 4096 < tl n ∨ tl n + 4096 < c.t)) →
        c.w = 256 → 2 ≤ c.preset.fOut → c.preset.fOut ≤ 256 → s.link.load .cue < 4 →
        ∃ d, exec .resumeGapEnd s = .next { s with
            moves := { s.moves with
              active := some d, lastAbandon := some .drift, handOver := ⟨d.w, c.preset.sTrim, 0⟩ }
            link := { s.link with cueLane := s.link.cueLane ++ [⟨.cancel none c.moveId, none⟩] } } ∧
          d.phase = .releasing ∧ d.t = c.t ∧ d.w0 = 256 ∧ d.fadeOut = 1 ∧
          d.w = 256 * (c.preset.fOut - 1) / c.preset.fOut))

/-- The end of a move. Playback at full rate ends at the total (R97): the step hands over what remains, and the context is
MP_FINISHED with its dwell count set. The dwell's end releases it and takes the first fade-out step (R107), and the
fade-out's end discards it with no abandon reason (R99). -/
def Obligations.PlaybackFinishesAtTheTotal : Prop :=
  ∀ (s : State) (c : Context), s.timerRuns = true → s.moves.active = some c → s.moves.pending = none → c.gap = 0 →
    (c.phase = .running → c.r = 256 → c.preset.wellFormed = true → drifted c.t (s.estimates c) = false →
      c.t < c.preset.total → c.preset.total ≤ c.t + levelFactor c.t (s.estimates c) →
      ∃ d, exec .playbackFinish s = .next { s with moves := { s.moves with
          active := some d
          handOver := ⟨d.w, c.preset.sTrim,
            (c.preset.posAt (c.preset.keys.length - 1) - c.preset.posAt 0) - c.preset.path c.k c.t⟩ } } ∧
        d.phase = .finished ∧ d.t = c.preset.total ∧ d.dwell = c.preset.dwell ∧ d.deferred = false ∧ d.gap = 0 ∧
        d.parts = c.parts) ∧
    (c.phase = .finished → c.dwell ≤ 1 → c.w = 256 → (c.preset.autoRelease = true ∨ c.releaseAtEnd = true) →
      2 ≤ c.preset.fOut →
      exec .dwellEnd s = .next { s with moves := { s.moves with
        active := some { c with phase := .releasing, lam := 256, dwell := 0, w0 := 256, fadeOut := 1
                                w := 256 * (c.preset.fOut - 1) / c.preset.fOut }
        handOver := ⟨256 * (c.preset.fOut - 1) / c.preset.fOut, c.preset.sTrim, 0⟩ } }) ∧
    (c.phase = .releasing → c.preset.fOut ≤ c.fadeOut + 1 →
      exec .fadeOutEnd s = .next { s with moves := { s.moves with active := none, handOver := ⟨0, 0, 0⟩ } })

/-- The surge unit at a period expiry: a GRANTED status has its countdown one less, and at 0 the grant is over, whatever
else holds (R63); every life is one less and entries at 0 are removed in order (R62), and a SENT claim is given up
(R64). That a row stands for the unit's whole reaction is log entry 1. And a claim is asked for by the setpoint operation in
NS_ACTIVE (R34, R58): where the requested increase exceeds A_low, no claim and no grant stands, the window has room and no
SURGE frame of the node's is about, the status becomes QUEUED with a SURGE frame in its lane; where one of the first three
fails, and in NS_HOLD_PARK, nothing is asked. -/
def Obligations.SurgeUnitAtAnExpiry : Prop :=
  (∀ s : State, s.timerRuns = true →
    let window := (s.surge.window.filter (fun c => decide (2 ≤ c.life))).map (fun c => ⟨c.src, c.life - 1⟩)
    ((∃ c ∈ s.surge.window, c.life = 1) → s.surge.status = .none ∨ s.surge.status = .queued →
      exec .surgeEntryExpiry s = .next { s with surge := { s.surge with window := window } }) ∧
    ((∃ c ∈ s.surge.window, c.life = 1) → s.surge.status = .sent →
      exec .surgeEntryExpiry s = .next { s with surge := { s.surge with window := window, status := .none } }) ∧
    (s.surge.status = .granted → s.surge.countdown = 1 →
      exec .grantEnd s = .next { s with surge := { window := window, status := .none, countdown := 0 } }) ∧
    (s.surge.status = .granted → 2 ≤ s.surge.countdown →
      s.surgeReaction = { s with surge := { s.surge with window := window, countdown := s.surge.countdown - 1 } })) ∧
  (∀ s : State,
    let v := s.target s.requested
    let vc := s.limiter.vc
    let wanted := if (0 < v ∧ vc < 0) ∨ (v < 0 ∧ 0 < vc) then |v| else |v| - |vc|
    (s.axis.nodeState = .active → s.start.profile.aLow < wanted → s.surge.status = .none →
      s.surge.window.length < 4 → s.link.load .surge = 0 →
      s.operate.surge = { s.surge with status := .queued } ∧
      s.operate.link = { s.link with surgeLane := [plain .surge] }) ∧
    ((s.axis.nodeState = .active ∧
        (wanted ≤ s.start.profile.aLow ∨ s.surge.status ≠ .none ∨ 4 ≤ s.surge.window.length)) ∨
        s.axis.nodeState = .holdPark →
      s.operate.surge = s.surge ∧ s.operate.link = s.link))

/-- The aging of the peer table and the stick record at the expiry that makes one STALE (R47, R54): every age one more
up to 255, contents kept, and with no context in the node nothing else changes. -/
def Obligations.PeerAndStickAgesGoStale : Prop :=
  ∀ (s : State) (c : Instr), s.timerRuns = true →
    (c = .peerStale ∧ (∃ n e, s.entry n = some e ∧ e.age = 8)) ∨
      (c = .stickStale ∧ ∃ r, s.peers.stick = some r ∧ r.age = 8) →
    ∃ t, exec c s = .next t ∧
      (∀ n, t.entry n = (s.entry n).map (fun e => { e with age := min (e.age + 1) 255 })) ∧
      t.peers.stick = s.peers.stick.map (fun r => { r with age := min (r.age + 1) 255 }) ∧
      t.limiter = s.limiter ∧ t.blend = s.blend ∧ t.surge = s.surge ∧ t.store = s.store ∧ t.axis = s.axis ∧
      t.drive = s.drive ∧ t.start = s.start ∧
      (s.moves.none? = true → t.moves = s.moves ∧ t.link = s.link)

/-- A participant going STALE. One of a fired JOINT move holds it, with an untagged HOLD in the CUE lane (R104). One of a
posted context returns it to MP_ARMED with its armed countdown as it was kept, with an untagged HOLD for the ACTIVE one and
none for a PENDING one (R83); the post countdown it leaves is 0 (log entry 28). -/
def Obligations.LostParticipantHoldsTheMove : Prop :=
  (∀ (s : State) (c : Context) (n : Station) (e : PeerEntry), s.timerRuns = true → s.moves.active = some c →
    s.moves.pending = none → c.parts.has n = true → s.entry n = some e → e.age = 8 → s.link.load .cue < 4 →
    (c.kind = .joint → (c.phase = .running ∨ c.phase = .resuming) →
      ∃ t, exec .peerStale s = .next t ∧
        t.moves = { s.moves with active := some { c with phase := .holding, deferred := false } } ∧
        t.link = { s.link with cueLane := s.link.cueLane ++ [⟨.hold none c.moveId, none⟩] } ∧
        t.axis = s.axis ∧ t.limiter = s.limiter ∧ t.blend = s.blend ∧ t.surge = s.surge ∧ t.store = s.store ∧
        t.drive = s.drive ∧ t.start = s.start) ∧
    (c.phase = .posted →
      ∃ t, exec .peerStale s = .next t ∧
        t.moves = { s.moves with active := some { c with phase := .armed, postCd := 0, due := false } } ∧
        t.link = { s.link with cueLane := s.link.cueLane ++ [⟨.hold none c.moveId, none⟩] } ∧
        t.axis = s.axis ∧ t.limiter = s.limiter ∧ t.blend = s.blend ∧ t.surge = s.surge ∧ t.store = s.store ∧
        t.drive = s.drive ∧ t.start = s.start)) ∧
  (∀ (s : State) (a c : Context) (n : Station) (e : PeerEntry), s.timerRuns = true → s.moves.active = some a →
    s.moves.pending = some c → (a.phase = .holding ∨ a.phase = .suspended) → c.phase = .posted →
    c.parts.has n = true → s.entry n = some e → e.age = 8 →
    ∃ t, exec .peerStale s = .next t ∧ t.link = s.link ∧
      t.moves = { s.moves with pending := some { c with phase := .armed, postCd := 0, due := false } })

/-- The brake sequences (R137, R140, R145): at the profile's brake timeout with no feedback the node faults with
FC_BRAKE_TIMEOUT, and at the 25th settle count of a confirmed release it enters NS_ACTIVE. -/
def Obligations.BrakeTimeoutFaultsAndSettleEndsInActive : Prop :=
  ∀ s : State, s.timerRuns = true →
    ((s.axis.nodeState = .brakeRelease ∧ s.axis.releaseConfirmed = false ∧ s.drive.lines.brakeFb.active = false) ∨
       (s.axis.nodeState = .brakeEngage ∧ s.drive.lines.brakeFb.active = true) →
      s.axis.brakeCount + 1 = s.start.profile.brakeTimeout → s.axis.cause = .none →
      ∃ t, exec .brakeTimeout s = .next t ∧ t.axis.nodeState = .faulted ∧ t.axis.cause = .brakeTimeout ∧
        t.axis.brakeReleased = false ∧ t.axis.driveEnable = false ∧ t.axis.brakeCount = 0 ∧
        t.axis.haltLatch = s.axis.haltLatch ∧ t.limiter = ⟨s.limiter.S, 0, 0⟩ ∧ t.moves = s.moves ∧
        t.link = s.link ∧ t.store = s.store ∧ t.drive = s.drive ∧ t.peers = s.peers ∧ t.blend = s.blend ∧
        t.start = s.start) ∧
    (s.axis.nodeState = .brakeRelease → s.axis.releaseConfirmed = true → s.axis.settleCount = 24 →
      exec .brakeSettleEnd s = .next { s with axis := { s.axis with
        nodeState := .active, brakeReleased := true, driveEnable := true, brakeCount := 0, settleCount := 0
        unparkPending := false, releaseConfirmed := false, startFault := false } })

/-- The third miss of the drive, and the third following error, at a hand-over (R153, R154, R145): the exchange of that
hand-over still carries the old drive enable, and the node then stands in NS_FAULTED with the cause. -/
def Obligations.ThirdDriveMissFaultsTheNode : Prop :=
  ∀ (s : State) (e : Exchange), s.timerRuns = true → s.drive.exchange = some e → e.enable = true →
    s.axis.nodeState ≠ .starting → s.axis.nodeState ≠ .configFault → s.axis.nodeState ≠ .faulted →
    s.axis.cause = .none → s.link.owed < 8 →
    ((∀ p, e.outcome ≠ .answered p) → s.drive.silent = 2 →
      ∃ t x, exec .driveSilent s = .next t ∧ t.axis.nodeState = .faulted ∧ t.axis.cause = .driveSilent ∧
        t.axis.driveEnable = false ∧ t.axis.brakeReleased = false ∧ t.limiter.vc = 0 ∧ t.drive.silent = 3 ∧
        t.drive.exchange = some x ∧ x.enable = s.axis.driveEnable ∧ t.store = s.store ∧ t.peers = s.peers ∧
        t.start = s.start ∧ t.link.echo = s.link.echo ∧ t.axis.haltLatch = s.axis.haltLatch) ∧
    (∀ p, e.outcome = .answered p → e.tracking = false →
      256 * s.start.profile.feLimit < |e.setpoint - 256 * p| → s.drive.following = 2 →
      ∃ t x, exec .followingError s = .next t ∧ t.axis.nodeState = .faulted ∧ t.axis.cause = .following ∧
        t.axis.driveEnable = false ∧ t.axis.brakeReleased = false ∧ t.limiter.vc = 0 ∧ t.drive.following = 3 ∧
        t.drive.exchange = some x ∧ x.enable = s.axis.driveEnable ∧ t.store = s.store ∧ t.peers = s.peers ∧
        t.start = s.start ∧ t.link.echo = s.link.echo ∧ t.axis.haltLatch = s.axis.haltLatch)

/-- The owed count rising to 9 at a placement (R168, R169, R144, R146): the cause is FC_LINK_STARVED whatever stood
there, and a node that moves or may move stops. -/
def Obligations.NinthOwedFrameStarvesTheLink : Prop :=
  ∀ s : State, s.timerRuns = true → s.link.owed = 8 → s.link.stateLane ≠ [] →
    becameThree s.drive.silent (judgedSilent s.drive.exchange s.drive.silent) = false →
    becameThree s.drive.following
      (judgedFollowing s.start.profile.feLimit s.drive.exchange s.drive.following) = false →
    ∃ t, exec .linkStarved s = .next t ∧ t.link.owed = 9 ∧ t.link.stateLane.length = 1 ∧
      t.axis.cause = .linkStarved ∧
      (s.axis.nodeState = .active ∨ s.axis.nodeState = .holdPark ∨ s.axis.nodeState = .brakeRelease →
        t.axis.nodeState = (if t.limiter.vc = 0 then .stopped else .stopping)) ∧
      (s.axis.nodeState = .braked → t.axis.nodeState = .braked) ∧
      t.store = s.store ∧ t.peers = s.peers ∧ t.start = s.start ∧ t.link.echo = s.link.echo ∧
      t.axis.haltLatch = s.axis.haltLatch

/-! ## The line -/

/-- An idle of the line (R160, R165): the node's oldest frame of its lowest non-empty lane is taken when no offered key
is lower (an equal one lets it through, log entry 23), and nothing changes when one is. -/
def Obligations.LineTakesTheLowestOfferedFrame : Prop :=
  ∀ (s : State) (k : Lane) (q : Queued) (rest : List Queued) (others : List Byte), s.live = true →
    s.link.onLine = none → s.link.lane k = q :: rest → (∀ j : Lane, j.cls < k.cls → s.link.lane j = []) →
    ((∀ o ∈ others, 16 * k.cls + s.start.station.val ≤ o.toNat) →
      exec (.lineIdle others) s = .next { s with link :=
        { (s.link.setLane k rest) with onLine := some ⟨k, q, false⟩ } }) ∧
    ((∃ o ∈ others, o.toNat < 16 * k.cls + s.start.station.val) → exec (.lineIdle others) s = .next s)

/-- The departure of the node's frame (R161, R59, R77, R169): it leaves the line, and the block that made it learns of
it. A STATE frame clears the owed count, a SURGE frame's claim is SENT, the own JOIN of its context is SENT. -/
def Obligations.DepartureIsReportedToItsBlock : Prop :=
  ∀ (s : State) (o : OnLine), s.live = true → s.link.onLine = some o →
    (o.lane = .state → s.axis.nodeState ≠ .configFault →
      exec .frameDeparture s = .next { s with link :=
        { s.link with onLine := none, departed := some o.item.frame, owed := 0 } }) ∧
    (o.lane = .surge → s.surge.status = .queued → o.withdrawn = false →
      exec .frameDeparture s = .next { s with
        link := { s.link with onLine := none, departed := some o.item.frame }
        surge := { s.surge with status := .sent } }) ∧
    (∀ c, o.lane = .cue → o.item.ctx = some c.serial → s.moves.active = some c → s.moves.pending = none →
      c.ownJoin = some .queued →
      exec .frameDeparture s = .next { s with
        link := { s.link with onLine := none, departed := some o.item.frame }
        moves := { s.moves with active := some { c with ownJoin := some .sent } } }) ∧
    (o.lane = .halt ∨ o.lane = .service →
      exec .frameDeparture s = .next { s with link :=
        { s.link with onLine := none, departed := some o.item.frame } })

/-- The node's frame ends unacknowledged (R166, R167, R168): back to the front of its lane, discarded when its
withdrawal waited, and a STATE frame whose lane holds a newer one is discarded and counted. A withdrawal (R167) removes the
JOIN of its context, or the SURGE frame, from its lane with the others in order, waits at a frame on the line, and does
nothing where there is none. -/
def Obligations.UnacknowledgedFrameGoesBack : Prop :=
  (∀ (s : State) (o : OnLine), s.live = true → s.link.onLine = some o →
    (o.lane ≠ .state → o.withdrawn = false →
      exec .frameUnacknowledged s = .next { s with link :=
        { (s.link.setLane o.lane (o.item :: s.link.lane o.lane)) with onLine := none } }) ∧
    (o.lane ≠ .state → o.withdrawn = true →
      exec .frameUnacknowledged s = .next { s with link := { s.link with onLine := none } }) ∧
    (o.lane = .state → s.link.stateLane = [] →
      exec .frameUnacknowledged s = .next { s with link := { s.link with onLine := none, stateLane := [o.item] } }) ∧
    (o.lane = .state → s.link.stateLane ≠ [] → s.link.owed < 8 →
      exec .frameUnacknowledged s = .next { s with link := { s.link with onLine := none, owed := s.link.owed + 1 } })) ∧
  (∀ (l : Link) (n : Nat),
    (∀ before q after, l.cueLane = before ++ q :: after → q.ctx = some n →
      (∀ x ∈ before ++ after, x.ctx ≠ some n) → (∀ o, l.onLine = some o → o.lane ≠ .cue ∨ o.item.ctx ≠ some n) →
      l.withdrawJoin n = { l with cueLane := before ++ after }) ∧
    (∀ o, l.onLine = some o → o.lane = .cue → o.item.ctx = some n → (∀ x ∈ l.cueLane, x.ctx ≠ some n) →
      l.withdrawJoin n = { l with onLine := some { o with withdrawn := true } }) ∧
    ((∀ o, l.onLine = some o → o.lane ≠ .cue ∨ o.item.ctx ≠ some n) → (∀ x ∈ l.cueLane, x.ctx ≠ some n) →
      l.withdrawJoin n = l)) ∧
  (∀ l : Link,
    ((∀ o, l.onLine = some o → o.lane ≠ .surge) → l.withdrawSurge = { l with surgeLane := [] }) ∧
    (∀ o, l.onLine = some o → o.lane = .surge →
      l.withdrawSurge = { l with surgeLane := [], onLine := some { o with withdrawn := true } }))

/-! ## Frame arrivals -/

/-- A HALT from any station (R141, R88): the halt latch set, every context discarded with AB_HALTED, and NS_STOPPING
from NS_ACTIVE and NS_HOLD_PARK, at once NS_STOPPED with v_c 0; the states at rest stand. -/
def Obligations.HaltFrameStopsTheNode : Prop :=
  ∀ (rx : Rx) (cause : HaltCause) (s : State), s.live = true →
    ∃ t, exec (.halt rx cause) s = .next t ∧ t.axis.haltLatch = true ∧ t.axis.cause = s.axis.cause ∧
      t.moves = { s.moves with
        active := none, pending := none
        lastAbandon := if s.moves.none? = true then s.moves.lastAbandon else some .halted } ∧
      (s.axis.nodeState = .active ∨ s.axis.nodeState = .holdPark →
        t.axis.nodeState = (if s.limiter.vc = 0 then .stopped else .stopping)) ∧
      (s.axis.nodeState = .brakeRelease → s.limiter.vc = 0 → t.axis.nodeState = .stopped) ∧
      (s.axis.nodeState ≠ .active → s.axis.nodeState ≠ .holdPark → s.axis.nodeState ≠ .brakeRelease →
        t.axis.nodeState = s.axis.nodeState ∧ t.limiter = s.limiter ∧ t.surge = s.surge) ∧
      t.peers = s.peers ∧ t.store = s.store ∧ t.blend = s.blend ∧ t.drive = s.drive ∧ t.start = s.start ∧
      t.surge.window = s.surge.window ∧ t.link.echo = s.link.echo ∧ t.link.owed = s.link.owed ∧
      t.limiter.S = s.limiter.S

/-- A SURGE frame against the window (R60), and the claim status its own loopback settles (R61). A frame with the node's
number that is no loopback is another station's claim. -/
def Obligations.SurgeFrameAgainstTheWindow : Prop :=
  ∀ (rx : Rx) (s : State), s.live = true →
    let taken := if s.surge.window.length < 4 then s.surge.window ++ [⟨rx.src, 40⟩] else s.surge.window
    (s.isLoopback rx .surge = false →
      exec (.surge rx) s = .next { s.heard with surge := { s.surge with window := taken } }) ∧
    (s.isLoopback rx .surge = true → s.surge.status = .sent → s.surge.window.length < 4 →
      exec (.surge rx) s = .next { s.heard with surge := { window := taken, status := .granted, countdown := 25 } }) ∧
    (s.isLoopback rx .surge = true → s.surge.status = .sent → 4 ≤ s.surge.window.length →
      exec (.surge rx) s = .next { s.heard with surge := { window := taken, status := .none, countdown := 0 } }) ∧
    (s.isLoopback rx .surge = true → s.surge.status = .none → s.surge.countdown = 0 →
      exec (.surge rx) s = .next { s.heard with surge := { window := taken, status := .none, countdown := 0 } })

/-- An ARM for this station that every test passes (R73, R74, R76): a context in MP_GATHER with the slot's record, an empty
set and a gather countdown of 25, its JOIN at the end of the CUE lane, and RC_OK. With both places empty it is the ACTIVE
one; so it is beside a context that has not fired, which is superseded, its own JOIN withdrawn where it is QUEUED, in
whatever phase (R75); beside one that plays, with the splice allowed, another move id and no auto-release, it is the
PENDING one, not tested at start. -/
def Obligations.AcceptedArmBeginsTheGather : Prop :=
  ∀ (rx : Rx) (tag moveId : Byte) (slot : Fin 48) (targets : StationSet) (splice : Bool) (s : State) (p : Preset),
    s.live = true → targets.has s.start.station = true → moveId ≠ 0 → s.axis.nodeState = .active →
    s.store.slots[slot] = .held p → s.moves.pending = none → s.link.load .cue < 4 →
    (s.moves.active = none → |s.ownPos - p.posAt 0| ≤ s.start.profile.startTol * 256 →
      ∃ t c, exec (.arm rx tag moveId (BitVec.ofNat 8 slot.val) targets splice) s = .next t ∧
        t.moves = { s.moves with active := some c, lastAbandon := none, nextSerial := s.moves.nextSerial + 1 } ∧
        c.moveId = moveId ∧ c.kind = .joint ∧ c.phase = .gather ∧ c.slot = slot ∧ c.preset = p ∧ c.parts = 0 ∧
        c.gatherCd = 25 ∧ c.ownJoin = some .queued ∧ c.releaseAtEnd = false ∧
        t.link = { s.link with
          departed := none, echo := some (tag, .ok)
          cueLane := s.link.cueLane ++ [⟨.join moveId, some s.moves.nextSerial⟩] } ∧
        t = { s with moves := t.moves, link := t.link }) ∧
    (∀ a, s.moves.active = some a → a.phase.fired = false →
      |s.ownPos - p.posAt 0| ≤ s.start.profile.startTol * 256 →
      let kept := if a.ownJoin = some .queued then s.link.withdrawJoin a.serial else s.link
      ∃ t c, exec (.arm rx tag moveId (BitVec.ofNat 8 slot.val) targets splice) s = .next t ∧
        t.moves = { s.moves with active := some c, lastAbandon := none, nextSerial := s.moves.nextSerial + 1 } ∧
        c.moveId = moveId ∧ c.kind = .joint ∧ c.phase = .gather ∧ c.slot = slot ∧ c.preset = p ∧ c.parts = 0 ∧
        c.gatherCd = 25 ∧ c.ownJoin = some .queued ∧ c.releaseAtEnd = false ∧
        t.link = { kept with
          departed := none, echo := some (tag, .ok)
          cueLane := kept.cueLane ++ [⟨.join moveId, some s.moves.nextSerial⟩] } ∧
        t = { s with moves := t.moves, link := t.link }) ∧
    (∀ a, s.moves.active = some a → a.phase.playing = true → splice = true → a.moveId ≠ moveId →
      a.preset.autoRelease = false →
      ∃ t c, exec (.arm rx tag moveId (BitVec.ofNat 8 slot.val) targets splice) s = .next t ∧
        t.moves = { s.moves with pending := some c, lastAbandon := none, nextSerial := s.moves.nextSerial + 1 } ∧
        c.moveId = moveId ∧ c.kind = .joint ∧ c.phase = .gather ∧ c.slot = slot ∧ c.preset = p ∧ c.parts = 0 ∧
        c.gatherCd = 25 ∧ c.ownJoin = some .queued ∧ c.releaseAtEnd = false ∧
        t.link = { s.link with
          departed := none, echo := some (tag, .ok)
          cueLane := s.link.cueLane ++ [⟨.join moveId, some s.moves.nextSerial⟩] } ∧
        t = { s with moves := t.moves, link := t.link })

/-- The tests of an ARM, in their order (R73, R74): outside NS_ACTIVE, a slot above 47 or move id 0, the slot's status, a
place that is not free (a PENDING context, an ACTIVE one that has finished, or one that plays with no splice allowed, with
the same move id, or with auto-release, RC_SPLICE_DENIED), and the distance from the first keyframe each answer their code;
nothing else changes, but that a supersede the placement has taken stands (R75). A station that is no target leaves even
the echo. -/
def Obligations.RefusedArmAnswersItsFirstFailedTest : Prop :=
  ∀ (rx : Rx) (tag moveId slotByte : Byte) (targets : StationSet) (splice : Bool) (s : State), s.live = true →
    targets ≠ 0 →
    let answer := fun rc => Host.Outcome.next (φ := Fault) (ρ := Refusal)
      { s.heard with link := { s.heard.link with echo := some (tag, rc) } }
    let run := exec (.arm rx tag moveId slotByte targets splice) s
    (targets.has s.start.station = false → run = .next s.heard) ∧
    (targets.has s.start.station = true → s.axis.nodeState ≠ .active → run = answer .refusedState) ∧
    (targets.has s.start.station = true → s.axis.nodeState = .active → 48 ≤ slotByte.toNat ∨ moveId = 0 →
      run = answer .badArgument) ∧
    (∀ slot : Fin 48, targets.has s.start.station = true → s.axis.nodeState = .active → slotByte.toNat = slot.val →
      moveId ≠ 0 →
      (s.store.slots[slot] = .empty → run = answer .slotEmpty) ∧
      (s.store.slots[slot] = .invalid → run = answer .slotInvalid) ∧
      (s.store.slots[slot] = .writing ∨ s.store.slots[slot] = .erasing → run = answer .slotBusy) ∧
      (∀ p, s.store.slots[slot] = .held p →
        (s.moves.pending.isSome = true → run = answer .busy) ∧
        (∀ a, s.moves.active = some a → a.phase.fired = true →
          (splice = false ∨ a.phase = .finished ∨ a.phase = .releasing ∨ a.moveId = moveId → run = answer .busy) ∧
          (s.moves.pending = none → splice = true → a.phase.playing = true → a.moveId ≠ moveId →
            a.preset.autoRelease = true → run = answer .spliceDenied)) ∧
        (s.moves.pending = none → s.start.profile.startTol * 256 < |s.ownPos - p.posAt 0| →
          (s.moves.active = none → run = answer .notAtStart) ∧
          (∀ a, s.moves.active = some a → a.phase.fired = false →
            run = .next { s with
              moves := { s.moves with active := none, lastAbandon := some .superseded }
              link := { (if a.ownJoin = some .queued then s.link.withdrawJoin a.serial else s.link) with
                departed := none, echo := some (tag, .notAtStart) } }))))

/-- A JOIN for a gathering context (R77): a new source joins the set and restarts the countdown at 25, a member's JOIN
changes nothing, and the own loopback marks the own JOIN HEARD. -/
def Obligations.JoinEntersTheGatheringSet : Prop :=
  ∀ (rx : Rx) (s : State) (c : Context), s.live = true → s.moves.active = some c → c.phase = .gather →
    (s.isLoopback rx (.join c.moveId) = false → c.parts.has rx.src = false →
      exec (.join rx c.moveId) s = .next { s.heard with moves := { s.moves with
        active := some { c with parts := c.parts ||| (1#16 <<< rx.src.val), gatherCd := 25 } } }) ∧
    (s.isLoopback rx (.join c.moveId) = false → c.parts.has rx.src = true →
      exec (.join rx c.moveId) s = .next s.heard) ∧
    (s.isLoopback rx (.join c.moveId) = true → c.parts.has rx.src = false →
      exec (.join rx c.moveId) s = .next { s.heard with moves := { s.moves with
        active := some { c with parts := c.parts ||| (1#16 <<< rx.src.val), gatherCd := 25
                                ownJoin := some .heard } } })

/-- A GO at an armed or posted context that stands alone (R82): MP_POSTED with the lead clamped to 250 when every
participant is FRESH, RC_PEER_LOST with no change when one is not. The other cues there (R82): a HOLD returns a posted
context to MP_ARMED, its post countdown then 0 (log entry 28), and leaves an armed one; a RESUME is refused; at a fired
context the GO is. In the gather a GO, HOLD, RESUME or RELEASE abandons the move AB_EARLY_CUE, its own JOIN withdrawn where
it is QUEUED, and is refused (R80). -/
def Obligations.GoPostsAnArmedContext : Prop :=
  ∀ (rx : Rx) (tag lead : Byte) (s : State) (c : Context), s.live = true → s.moves.active = some c →
    s.moves.pending = none → c.moveId ≠ 0 →
    ((c.phase = .armed ∨ c.phase = .posted) →
      ((∀ n, c.parts.has n = true → ∃ e, s.entry n = some e ∧ e.age ≤ 8) →
        exec (.go rx tag c.moveId lead) s = .next { s with
          moves := { s.moves with
            active := some { c with phase := .posted, postCd := min lead.toNat 250, due := false } }
          link := { s.link with departed := none, echo := some (tag, .ok) } }) ∧
      ((∃ n, c.parts.has n = true ∧ ∀ e, s.entry n = some e → 9 ≤ e.age) →
        exec (.go rx tag c.moveId lead) s = .next { s with
          link := { s.link with departed := none, echo := some (tag, .peerLost) } })) ∧
    (c.phase.fired = true → exec (.go rx tag c.moveId lead) s = .next { s with
      link := { s.link with departed := none, echo := some (tag, .refusedState) } }) ∧
    (∀ cueTag : Option Byte,
      let echo := fun (rc : ResultCode) => (cueTag.map (fun x => (x, rc))).or s.link.echo
      (c.phase = .armed → exec (.hold rx cueTag c.moveId) s = .next { s with
        link := { s.link with departed := none, echo := echo .ok } }) ∧
      (c.phase = .posted → exec (.hold rx cueTag c.moveId) s = .next { s with
        moves := { s.moves with active := some { c with phase := .armed, postCd := 0, due := false } }
        link := { s.link with departed := none, echo := echo .ok } }) ∧
      ((c.phase = .armed ∨ c.phase = .posted) → exec (.resume rx cueTag c.moveId) s = .next { s with
        link := { s.link with departed := none, echo := echo .refusedState } }) ∧
      (c.phase = .gather → ∀ i, (cueTag = some tag ∧ i = Instr.go rx tag c.moveId lead) ∨
          i = .hold rx cueTag c.moveId ∨ i = .resume rx cueTag c.moveId ∨ i = .release rx cueTag c.moveId →
        exec i s = .next { s with
          moves := { s.moves with active := none, lastAbandon := some .earlyCue }
          link := { (if c.ownJoin = some .queued then s.link.withdrawJoin c.serial else s.link) with
            departed := none, echo := echo .refusedState } }))

/-- A HOLD at a fired context (R100): taken, deferred when a console sends it in the resume gap, or no change. -/
def Obligations.HoldByPhaseAndTag : Prop :=
  ∀ (rx : Rx) (tag : Option Byte) (s : State) (c : Context), s.live = true → s.moves.active = some c →
    c.moveId ≠ 0 →
    let run := exec (.hold rx tag c.moveId) s
    let answered := fun (d : Context) (rc : ResultCode) => Host.Outcome.next (φ := Fault) (ρ := Refusal)
      { s with
        moves := { s.moves with active := some d }
        link := { s.link with departed := none, echo := (tag.map (fun x => (x, rc))).or s.link.echo } }
    ((c.phase = .running ∨ c.phase = .resuming) → (c.gap = 0 ∨ tag = none) →
      run = answered { c with phase := .holding } .ok) ∧
    ((c.phase = .running ∨ c.phase = .resuming) → c.gap ≠ 0 → tag ≠ none →
      run = answered { c with deferred := true } .ok) ∧
    ((c.phase = .holding ∨ c.phase = .suspended) → run = answered c .ok) ∧
    ((c.phase = .finished ∨ c.phase = .releasing) → run = answered c .refusedState)

/-- A RESUME at a fired context (R101): MP_RESUMING with a gap of 50 when every participant is FRESH, RC_PEER_LOST when
one is not, a deferred hold dropped, or a refusal. -/
def Obligations.ResumeByPhaseAndParticipants : Prop :=
  ∀ (rx : Rx) (tag : Option Byte) (s : State) (c : Context), s.live = true → s.moves.active = some c →
    c.moveId ≠ 0 →
    let run := exec (.resume rx tag c.moveId) s
    let answered := fun (d : Context) (rc : ResultCode) => Host.Outcome.next (φ := Fault) (ρ := Refusal)
      { s with
        moves := { s.moves with active := some d }
        link := { s.link with departed := none, echo := (tag.map (fun x => (x, rc))).or s.link.echo } }
    ((c.phase = .holding ∨ c.phase = .suspended) →
      (∀ n, c.parts.has n = true → ∃ e, s.entry n = some e ∧ e.age ≤ 8) →
      run = answered { c with phase := .resuming, gap := 50 } .ok) ∧
    ((c.phase = .holding ∨ c.phase = .suspended) →
      (∃ n, c.parts.has n = true ∧ ∀ e, s.entry n = some e → 9 ≤ e.age) → run = answered c .peerLost) ∧
    (c.phase = .resuming → run = answered { c with deferred := false } .ok) ∧
    ((c.phase = .running ∨ c.phase = .finished ∨ c.phase = .releasing) → run = answered c .refusedState)

/-- A RELEASE at a context past the gather (R82, R108): release at end set, but for one in MP_RELEASING; RC_OK. -/
def Obligations.ReleaseSetsReleaseAtEnd : Prop :=
  ∀ (rx : Rx) (tag : Option Byte) (s : State) (c : Context), s.live = true → s.moves.active = some c →
    c.moveId ≠ 0 → c.phase ≠ .gather →
    exec (.release rx tag c.moveId) s = .next { s with
      moves := { s.moves with active := some { c with
        releaseAtEnd := if c.phase = .releasing then c.releaseAtEnd else true } }
      link := { s.link with departed := none, echo := (tag.map (fun x => (x, ResultCode.ok))).or s.link.echo } }

/-- A CANCEL at the context with its move id (R87): an ACTIVE one that has not fired is discarded, a JOIN that waits
withdrawn with it in MP_GATHER and left past it (log entry 31); one that has fired goes into MP_RELEASING with its weight as
the fade-out's start, one already there stands, and a PENDING context goes with the ACTIVE one; a PENDING one is discarded
alone. -/
def Obligations.CancelAbandonsTheMove : Prop :=
  ∀ (rx : Rx) (tag : Option Byte) (s : State) (c : Context), s.live = true →
    let run := exec (.cancel rx tag c.moveId) s
    let answered := fun (l : Link) =>
      { l with departed := none, echo := (tag.map (fun x => (x, ResultCode.ok))).or s.link.echo }
    let released := { c with phase := .releasing, w0 := c.w, fadeOut := 0, w := if c.preset.fOut = 0 then 0 else c.w }
    (s.moves.active = some c → s.moves.pending = none → c.phase.fired = false →
      run = .next { s with
        link := answered (joinWithdrawn s.link c)
        moves := { s.moves with active := none, lastAbandon := some .cancelled } }) ∧
    (s.moves.active = some c → s.moves.pending = none → c.phase.fired = true → c.phase ≠ .releasing →
      run = .next { s with
        link := answered s.link
        moves := { s.moves with active := some released, lastAbandon := some .cancelled } }) ∧
    (∀ p, s.moves.active = some c → s.moves.pending = some p → c.phase.fired = true → c.phase ≠ .releasing →
      run = .next { s with
        link := answered (joinWithdrawn s.link p)
        moves := { s.moves with active := some released, pending := none, lastAbandon := some .cancelled } }) ∧
    (s.moves.active = some c → c.phase = .releasing → run = .next { s with link := answered s.link }) ∧
    (∀ a, s.moves.active = some a → a.moveId ≠ c.moveId → s.moves.pending = some c →
      run = .next { s with
        link := answered (joinWithdrawn s.link c)
        moves := { s.moves with pending := none, lastAbandon := some .cancelled } })

/-- A STICK frame (R53): from the stick source, with a channel of the node's role, it writes the record with age 0 and
the deflection clamped to 2047 either way, the first such channel counting; any other changes nothing. -/
def Obligations.StickFrameWritesTheRecord : Prop :=
  ∀ (rx : Rx) (enable : Bool) (channels : List Channel) (s : State), s.live = true → s.start.accepted = true →
    1 ≤ channels.length → channels.length ≤ 6 →
    (∀ before c after, channels = before ++ c :: after → (∀ b ∈ before, b.role ≠ s.start.profile.role) →
      c.role = s.start.profile.role → s.start.profile.stickSource = some rx.src →
      exec (.stick rx enable channels) s = .next { s.heard with peers := { s.peers with
        stick := some { enable := enable, d := max (-2047) (min 2047 c.deflection.toInt), age := 0 } } }) ∧
    ((∀ b ∈ channels, b.role ≠ s.start.profile.role) ∨ s.start.profile.stickSource ≠ some rx.src →
      exec (.stick rx enable channels) s = .next s.heard)

/-- A STATE frame (R45, R170): it writes its source's entry at age 0 and no other, with no context in the node nothing
else; the node's own number on a frame that is no loopback is a station clash, and writes nothing. One that shows the
node's move settled on another participant set splits it (R85): the lone ACTIVE context past MP_GATHER is abandoned
AB_MOVE_SPLIT, discarded if it has not fired and into MP_RELEASING if it has, with a CANCEL; one that shows the same set,
or is still in MP_GATHER, leaves it. An own JOIN still QUEUED then stays in its lane (log entry 31). -/
def Obligations.StateFrameWritesItsEntry : Prop :=
  ∀ (rx : Rx) (r : StateReport) (s : State), s.live = true → r.within = true →
    (rx.src ≠ s.start.station ∨ s.isLoopback rx (.state r) = true →
      ∃ t, exec (.stateArrival rx r) s = .next t ∧
        t.entry rx.src = some { setpoint := r.setpoint, velocity := r.velocity, report := r.report, parts := r.parts
                                timeline := r.timeline, age := 0 } ∧
        (∀ n, n ≠ rx.src → t.entry n = s.entry n) ∧ t.peers.stick = s.peers.stick ∧ t.limiter = s.limiter ∧
        t.axis = s.axis ∧ t.surge = s.surge ∧ t.store = s.store ∧ t.drive = s.drive ∧ t.blend = s.blend ∧
        t.start = s.start ∧
        (s.moves.none? = true → t.moves = s.moves ∧ t.link = s.heard.link) ∧
        (∀ c ph m, s.moves.active = some c → s.moves.pending = none → rx.src ≠ s.start.station →
          c.parts.has rx.src = true → c.phase ≠ .gather → c.phase ≠ .releasing →
          r.report = some (.move c.moveId ph) → r.parts = some m →
          (ph = .gather ∨ m = c.parts → t.moves = s.moves ∧ t.link = s.heard.link) ∧
          (ph ≠ .gather → m ≠ c.parts → s.link.load .cue < 4 →
            t.link = { s.link with
              departed := none, cueLane := s.link.cueLane ++ [⟨.cancel none c.moveId, none⟩] } ∧
            t.moves = { s.moves with
              lastAbandon := some .moveSplit
              active := if c.phase.fired = true then some { c with
                phase := .releasing, w0 := c.w, fadeOut := 0, w := if c.preset.fOut = 0 then 0 else c.w } else none }))) ∧
    (rx.src = s.start.station → s.isLoopback rx (.state r) = false → s.axis.nodeState ≠ .configFault →
      s.axis.cause = .none →
      ∃ t, exec (.stateArrival rx r) s = .next t ∧ t.peers = s.peers ∧ t.axis.cause = .stationClash ∧
        (s.axis.nodeState = .active → s.limiter.vc = 0 → t.axis.nodeState = .stopped) ∧
        (s.axis.nodeState = .active → s.limiter.vc ≠ 0 → t.axis.nodeState = .stopping) ∧
        (s.axis.nodeState = .braked → t.axis.nodeState = .braked) ∧
        t.store = s.store ∧ t.drive = s.drive ∧ t.blend = s.blend ∧ t.start = s.start ∧
        t.limiter.S = s.limiter.S ∧ t.surge.window = s.surge.window)

/-- Frames that are not for the node: a DESCRIPTOR whose fields lie within their encodings, and a SERVICE frame for another
station, change nothing, and a frame with a field outside its encoding is discarded whole (R162, R164, R181), such as a
DESCRIPTOR of page 0 with a role above 5 or a station above 15, or of page 3 with a slot status above 5. -/
def Obligations.FramesNotForTheNodeChangeNothing : Prop :=
  ∀ s : State, s.live = true →
    (∀ rx page content, (Frame.descriptor page content).within = true →
      exec (.descriptorArrival rx page content) s = .next s.heard) ∧
    (∀ rx content, content.length = 9 →
      (∃ b, (content[5]? = some b ∧ 16 ≤ b.toNat) ∨ (content[6]? = some b ∧ 6 ≤ b.toNat) ∨
        (content[7]? = some b ∧ 10 ≤ b.toNat)) → exec (.descriptorArrival rx 0 content) s = .next s) ∧
    (∀ rx content, content.length = 49 →
      (∃ b, (∃ k, k < 48 ∧ content[k]? = some b ∧ 6 ≤ b.toNat) ∨ (content[48]? = some b ∧ 5 ≤ b.toNat)) →
      exec (.descriptorArrival rx 3 content) s = .next s) ∧
    (∀ (i : Instr) (rx : Rx) (tag : Byte) (target : Station) (op : Operation),
      i.arrival? = some (rx, .service tag target op) → target ≠ s.start.station → exec i s = .next s.heard) ∧
    (∀ (i : Instr) (rx : Rx) (f : Frame), i.arrival? = some (rx, f) → f.within = false → exec i s = .next s)

/-! ## SERVICE commands addressed to this station -/

/-- QUERY (R179): a page of 0..3 is answered RC_OK and its DESCRIPTOR handed to the SERVICE lane with the content of its
page: 0 as its table has it, 1 and 2 the bytes of the image copy that the table names, 3 the statuses of the 48 slots and
the store operation; a page above 3 is RC_BAD_ARGUMENT. -/
def Obligations.QueryHandsADescriptor : Prop :=
  ∀ (h : SvcHead) (page : Byte) (s : State), s.live = true → h.target = s.start.station → s.start.image.length = 56 →
    (page.toNat ≤ 3 → s.link.load .service < 2 →
      ∃ content, content.length = pageLength page ∧
        (page = 0 → content = [0x0B, 0x6E, 0x26, 0x01, 1, BitVec.ofNat 8 s.start.station.val,
          BitVec.ofNat 8 s.reportedRole.code, BitVec.ofNat 8 s.start.status.code, failingByte s.start.failing]) ∧
        (page = 1 → (∀ k, k < 18 → content[k]? = s.start.image[k + 1]?) ∧
          (∀ k, k < 8 → content[k + 18]? = s.start.image[k + 44]?)) ∧
        (page = 2 → ∀ k, k < 25 → content[k]? = s.start.image[k + 19]?) ∧
        (page = 3 → (∀ k : Fin 48, content[k.val]? = some (BitVec.ofNat 8 s.store.slots[k].status.code)) ∧
          content[48]? = some (BitVec.ofNat 8 s.store.op.code)) ∧
        exec (.query h page) s = .next { s with link := { s.link with
          departed := none, echo := some (h.tag, .ok)
          serviceLane := s.link.serviceLane ++ [⟨.descriptor page content, none⟩] } }) ∧
    (4 ≤ page.toNat → exec (.query h page) s = .next { s with link := { s.link with
      departed := none, echo := some (h.tag, .badArgument) } })

/-- CAPTURE, UNDO and EDIT_CLEAR with the blend running and no store operation in flight (R121, R122): the own position
appended with its motion, absent on keyframe 0; the newest keyframe removed; the buffer emptied. -/
def Obligations.EditBufferCommandsAct : Prop :=
  ∀ (h : SvcHead) (dur : BitVec 16) (easing : Easing) (s : State), s.live = true → h.target = s.start.station →
    (s.axis.nodeState = .active ∨ s.axis.nodeState = .holdPark) → s.store.op.inFlight = false →
    let done := fun (b : List Keyframe) => Host.Outcome.next (φ := Fault) (ρ := Refusal) { s with
      store := { s.store with buffer := b }, link := { s.link with departed := none, echo := some (h.tag, .ok) } }
    (s.store.buffer = [] → exec (.capture h dur easing) s = done [⟨s.ownPos, none⟩]) ∧
    (s.store.buffer ≠ [] → s.store.buffer.length < 24 → exec (.capture h dur easing) s =
      done (s.store.buffer ++ [⟨s.ownPos, some ⟨max 1 (min dur.toNat 30000), easing⟩⟩])) ∧
    (24 ≤ s.store.buffer.length → exec (.capture h dur easing) s = .next { s with
      link := { s.link with departed := none, echo := some (h.tag, .bufferFull) } }) ∧
    exec (.undo h) s = done s.store.buffer.dropLast ∧ exec (.editClear h) s = done []

/-- A COMMIT that every test passes (R123, R124): the slot WRITING with its image gone, and an operation that writes the
buffer with the command's values clamped. That the region's marker is incomplete from the acceptance on is the model's
reading of R120 (log entry 18). -/
def Obligations.CommitBeginsAWrite : Prop :=
  ∀ (h : SvcHead) (slot : Fin 48) (auto protect : Bool) (fIn fOut dwell sTrim : BitVec 16) (s : State),
    s.live = true → h.target = s.start.station → s.store.op = .idle → 2 ≤ s.store.buffer.length →
    s.store.slots[slot].status ≠ .guarded → s.moves.guards slot = false →
    exec (.commit h (BitVec.ofNat 8 slot.val) auto protect fIn fOut dwell sTrim) s = .next { s with
      store := { s.store with
        slots := s.store.slots.set slot .writing
        op := .writing ⟨.commit, slot, h.tag, 0⟩
          { keys := s.store.buffer, fIn := min fIn.toNat 500, fOut := min fOut.toNat 500
            dwell := min dwell.toNat 500, sTrim := min sTrim.toNat 256, autoRelease := auto, protect := protect }
        regions := s.store.regions.set slot { s.store.regions[slot] with marker := .incomplete } }
      link := { s.link with departed := none, echo := some (h.tag, .ok) } }

/-- DELETE (R129): its tests in their order, each with its code and nothing else changed; a DELETE that passes begins the
erase, and on an EMPTY slot is RC_OK alone. That the region's marker is incomplete from the acceptance on is the model's
reading of R120 (log entry 18). -/
def Obligations.DeleteByItsTests : Prop :=
  ∀ (h : SvcHead) (slotByte : Byte) (s : State), s.live = true → h.target = s.start.station →
    let run := exec (.delete h slotByte) s
    let answer := fun rc => Host.Outcome.next (φ := Fault) (ρ := Refusal)
      { s with link := { s.link with departed := none, echo := some (h.tag, rc) } }
    (48 ≤ slotByte.toNat → run = answer .badArgument) ∧
    (∀ slot : Fin 48, slotByte.toNat = slot.val →
      (s.store.op = .locked → run = answer .storeLocked) ∧
      (s.store.op.busy = true → run = answer .busy) ∧
      (s.store.op = .idle → s.store.slots[slot].status = .guarded → run = answer .slotProtected) ∧
      (s.store.op = .idle → s.store.slots[slot].status ≠ .guarded → s.moves.guards slot = true →
        run = answer .slotBusy) ∧
      (s.store.op = .idle → s.store.slots[slot] = .empty → s.moves.guards slot = false → run = answer .ok) ∧
      (s.store.op = .idle → s.store.slots[slot].status ≠ .guarded → s.store.slots[slot] ≠ .empty →
        s.moves.guards slot = false →
        run = .next { s with
          store := { s.store with
            slots := s.store.slots.set slot .erasing, op := .erasing ⟨.delete, slot, h.tag, 0⟩
            regions := s.store.regions.set slot { s.store.regions[slot] with marker := .incomplete } }
          link := { s.link with departed := none, echo := some (h.tag, .ok) } }))

/-- UNPROTECT in NS_BRAKED with the store IDLE (R130): a PROTECTED slot's record is written again with protected no, a
VALID slot is RC_OK alone, an EMPTY or INVALID one is refused. That the region's marker is incomplete from the acceptance on
is the model's reading of R120 (log entry 18). -/
def Obligations.UnprotectBeginsARewrite : Prop :=
  ∀ (h : SvcHead) (slot : Fin 48) (s : State), s.live = true → h.target = s.start.station → s.store.op = .idle →
    s.axis.nodeState = .braked →
    let run := exec (.unprotect h (BitVec.ofNat 8 slot.val)) s
    let answer := fun rc => Host.Outcome.next (φ := Fault) (ρ := Refusal)
      { s with link := { s.link with departed := none, echo := some (h.tag, rc) } }
    (∀ p, s.store.slots[slot] = .held p → p.protect = true → run = .next { s with
      store := { s.store with
        slots := s.store.slots.set slot .writing
        op := .writing ⟨.unprotect, slot, h.tag, 0⟩ { p with protect := false }
        regions := s.store.regions.set slot { s.store.regions[slot] with marker := .incomplete } }
      link := { s.link with departed := none, echo := some (h.tag, .ok) } }) ∧
    (∀ p, s.store.slots[slot] = .held p → p.protect = false → run = answer .ok) ∧
    (s.store.slots[slot] = .empty → run = answer .slotEmpty) ∧
    (s.store.slots[slot] = .invalid → run = answer .slotInvalid)

/-- A store completion (R125, R126, R127): a good one makes the written record the slot's image, or an erased slot
EMPTY, and leaves the store IDLE and the echo as it stands; a failed one locks the store; with no operation in flight
it is ignored. At the 250th expiry an operation fails as one that reports failure does. That an erased region is the empty
list of bytes, that record and check fill a written one, that the failed region keeps its marker and bytes, that whether
step 4 was done is an operand of STORE_TIME_LIMIT, and that this row is the store's whole reaction are the model's (log
entries 18, 34, 33, 18 and 1). -/
def Obligations.StoreCompletionEndsTheOperation : Prop :=
  ∀ (s : State) (op : OpRecord), s.live = true →
    (∀ p, s.store.op = .writing op p →
      exec (.storeCompletion true) s = .next { s with store := { s.store with
        slots := s.store.slots.set op.slot (.held p), op := .idle
        buffer := if op.kind = .commit then [] else s.store.buffer
        regions := s.store.regions.set op.slot ⟨.complete, p.checkedBytes⟩ } }) ∧
    (s.store.op = .erasing op → op.kind = .delete →
      exec (.storeCompletion true) s = .next { s with store := { s.store with
        slots := s.store.slots.set op.slot .empty, op := .idle
        regions := s.store.regions.set op.slot ⟨.erased, []⟩ } }) ∧
    ((∃ p, s.store.op = .writing op p) ∨ s.store.op = .erasing op →
      exec (.storeCompletion false) s = .next { s with
        store := { s.store with slots := s.store.slots.set op.slot .invalid, op := .locked }
        link := { s.link with echo := some (op.tag, .storeFailed) } }) ∧
    (s.store.op.inFlight = false → ∀ good, exec (.storeCompletion good) s = .next s) ∧
    (s.timerRuns = true → op.elapsed = 249 → (∃ p, s.store.op = .writing op p) ∨ s.store.op = .erasing op →
      exec (.storeTimeLimit false) s = .next { s with
        store := { s.store with slots := s.store.slots.set op.slot .invalid, op := .locked }
        link := { s.link with echo := some (op.tag, .storeFailed) } })

/-- GOTO_START that every test passes (R112): an APPROACH context with move id 0 from the own position to the slot's
first keyframe in one SMOOTH segment, its duration the ceiling of 3·|Δ|/(2·V_approach) within 1..30000, posted to fire at
the next expiry. That its preset copy is not protected is the model's choice (log entry 32). -/
def Obligations.GotoStartPostsAnApproach : Prop :=
  ∀ (h : SvcHead) (slot : Fin 48) (s : State) (p : Preset), s.live = true → h.target = s.start.station →
    s.axis.nodeState = .active → s.store.slots[slot] = .held p → s.moves.none? = true →
    1 ≤ s.start.profile.vApproach →
    ∃ t c n, exec (.gotoStart h (BitVec.ofNat 8 slot.val)) s = .next t ∧ t.moves.active = some c ∧
      t.moves.pending = none ∧ t.moves.lastAbandon = none ∧
      c.moveId = 0 ∧ c.kind = .approach ∧ c.phase = .posted ∧ c.postCd = 0 ∧
      c.parts = 1#16 <<< s.start.station.val ∧
      c.preset = { keys := [⟨s.ownPos, none⟩, ⟨p.posAt 0, some ⟨n, .smooth⟩⟩], fIn := 0, fOut := 25, dwell := 0
                   sTrim := 0, autoRelease := true, protect := false } ∧
      1 ≤ n ∧ n ≤ 30000 ∧
      (n < 30000 → 3 * |p.posAt 0 - s.ownPos| ≤ 2 * s.start.profile.vApproach * n) ∧
      (2 ≤ n → 2 * s.start.profile.vApproach * ((n : Int) - 1) < 3 * |p.posAt 0 - s.ownPos|) ∧
      t.link = { s.link with departed := none, echo := some (h.tag, .ok) } ∧
      t = { s with moves := t.moves, link := t.link }

/-- PARK and UNPARK (R136, R138, R139, R140): PARK enters its state from NS_ACTIVE at rest with no context and is
otherwise refused; UNPARK begins the brake release from NS_BRAKED with S at the drive's position, refused with a halt
latch, and in NS_HOLD_PARK sets unpark pending. -/
def Obligations.ParkAndUnparkChangeTheState : Prop :=
  ∀ (h : SvcHead) (mode : ParkMode) (s : State), s.live = true → h.target = s.start.station →
    (s.axis.nodeState ≠ .active → exec (.park h mode) s = .next { s with
      link := { s.link with departed := none, echo := some (h.tag, .refusedState) } }) ∧
    (s.axis.nodeState = .active → s.limiter.vc ≠ 0 ∨ s.moves.none? = false →
      exec (.park h mode) s = .next { s with
        link := { s.link with departed := none, echo := some (h.tag, .notStill) } }) ∧
    (s.axis.nodeState = .active → s.limiter.vc = 0 → s.moves.none? = true →
      ∃ t, exec (.park h mode) s = .next t ∧
        t.axis.nodeState = (if mode = .hold then .holdPark else .brakeEngage) ∧
        t.axis.brakeReleased = decide (mode = .hold) ∧ t.axis.driveEnable = true ∧ t.axis.brakeCount = 0 ∧
        t.link.echo = some (h.tag, .ok) ∧ t.limiter.S = s.limiter.S ∧ t.limiter.vc = 0 ∧ t.moves = s.moves ∧
        t.store = s.store ∧ t.drive = s.drive ∧ t.peers = s.peers ∧ t.blend = s.blend ∧ t.start = s.start ∧
        t.axis.cause = s.axis.cause ∧ t.axis.haltLatch = s.axis.haltLatch) ∧
    (s.axis.nodeState = .braked → s.axis.haltLatch = true → exec (.unpark h) s = .next { s with
      link := { s.link with departed := none, echo := some (h.tag, .halted) } }) ∧
    (∀ pos, s.axis.nodeState = .braked → s.axis.haltLatch = false → s.axis.cause = .none →
      s.drive.actual = some pos → |pos * 256| ≤ 1024000000 →
      ∃ t, exec (.unpark h) s = .next t ∧ t.axis.nodeState = .brakeRelease ∧ t.axis.brakeReleased = true ∧
        t.axis.driveEnable = true ∧ t.axis.releaseConfirmed = false ∧ t.limiter = ⟨pos * 256, 0, 0⟩ ∧
        t.link = { s.link with departed := none, echo := some (h.tag, .ok) } ∧ t.moves = s.moves ∧
        t.store = s.store ∧ t.drive = s.drive ∧ t.peers = s.peers ∧ t.blend = s.blend ∧ t.start = s.start) ∧
    (s.axis.nodeState = .holdPark → exec (.unpark h) s = .next { s with
      axis := { s.axis with unparkPending := true }
      link := { s.link with departed := none, echo := some (h.tag, .ok) } })

/-- CLEAR by node state (R128, R147), with the owed count below 9: NS_STOPPED goes to NS_ACTIVE with latch and cause
cleared, NS_FAULTED to NS_BRAKED with its latch kept, NS_BRAKED clears both; a LOCKED store is unlocked and counts as
acted on; with nothing to clear it is refused. -/
def Obligations.ClearActsByNodeState : Prop :=
  ∀ (h : SvcHead) (s : State), s.live = true → h.target = s.start.station → s.link.owed < 9 →
    (s.axis.nodeState = .stopped → s.drive.lines.estop.active = false →
      ∃ t, exec (.clear h) s = .next t ∧ t.axis.nodeState = .active ∧ t.axis.haltLatch = false ∧
        t.axis.cause = .none ∧ t.limiter = s.limiter ∧ t.moves = s.moves ∧ t.surge = s.surge ∧ t.peers = s.peers ∧
        t.blend = s.blend ∧ t.drive = s.drive ∧ t.start = s.start ∧
        t.link = { s.link with departed := none, echo := some (h.tag, .ok) } ∧
        t.store = { s.store with op := if s.store.op = .locked then .idle else s.store.op }) ∧
    (s.axis.nodeState = .faulted → s.drive.lines.driveFault.active = false →
      ∃ t, exec (.clear h) s = .next t ∧ t.axis.nodeState = .braked ∧ t.axis.haltLatch = s.axis.haltLatch ∧
        t.axis.cause = .none ∧ t.axis.driveEnable = false ∧ t.axis.brakeReleased = false ∧ t.moves = s.moves ∧
        t.peers = s.peers ∧ t.blend = s.blend ∧ t.drive = s.drive ∧ t.start = s.start ∧
        t.limiter.S = s.limiter.S ∧ t.link = { s.link with departed := none, echo := some (h.tag, .ok) } ∧
        t.store = { s.store with op := if s.store.op = .locked then .idle else s.store.op }) ∧
    (s.axis.nodeState = .braked → s.drive.lines.estop.active = false → s.store.op ≠ .locked →
      s.axis.haltLatch = true ∨ s.axis.cause ≠ .none →
      exec (.clear h) s = .next { s with
        axis := { s.axis with haltLatch := false, cause := .none }
        link := { s.link with departed := none, echo := some (h.tag, .ok) } }) ∧
    (s.axis.nodeState = .active → s.store.op = .locked → exec (.clear h) s = .next { s with
      store := { s.store with op := .idle }
      link := { s.link with departed := none, echo := some (h.tag, .ok) } }) ∧
    (s.axis.nodeState = .active → s.store.op ≠ .locked → exec (.clear h) s = .next { s with
      link := { s.link with departed := none, echo := some (h.tag, .refusedState) } })

/-- RESTART (R148, R180): in a resting state with the store not busy a start begins, unanswered; in another state it is
refused, and RC_BUSY while the store is busy. -/
def Obligations.RestartBeginsAStart : Prop :=
  ∀ (h : SvcHead) (straps : Station) (s : State), s.live = true → h.target = s.start.station →
    (s.axis.nodeState ∈ [NodeState.braked, .stopped, .faulted, .configFault] → s.store.op.busy = false →
      ∃ t, exec (.restart h straps) s = .next t ∧ t.axis = Axis.reset ∧ t.link = Link.reset ∧ t.link.echo = none ∧
        t.start.station = straps ∧ t.start.status = .reading ∧ t.store.op = .checking 0 ∧ t.store.buffer = [] ∧
        t.store.regions = s.store.regions ∧ t.limiter = ⟨0, 0, 0⟩ ∧ t.pending = s.pending) ∧
    (s.axis.nodeState ∈ [NodeState.braked, .stopped, .faulted, .configFault] → s.store.op.busy = true →
      exec (.restart h straps) s = .next { s with
        link := { s.link with departed := none, echo := some (h.tag, .busy) } }) ∧
    (s.axis.nodeState ∉ [NodeState.braked, .stopped, .faulted, .configFault] →
      exec (.restart h straps) s = .next { s with
        link := { s.link with departed := none, echo := some (h.tag, .refusedState) } })

/-- A SERVICE command that is refused, with whatever code, changes the result echo and nothing else (R171). -/
def Obligations.RefusedServiceChangesTheEchoAlone : Prop :=
  ∀ (i : Instr) (rx : Rx) (tag : Byte) (target : Station) (op : Operation) (s t : State) (rc : ResultCode),
    i.arrival? = some (rx, .service tag target op) → s.live = true → target = s.start.station → exec i s = .next t →
    t.link.echo = some (tag, rc) → rc ≠ .ok →
    t = { s with link := { s.link with departed := none, echo := some (tag, rc) } }

/-! ## The blend and the limiter -/

/-- The demand (R5 to R7, R10, R14, R15). The stick demand is 0 with the record not FRESH, the deadman released, in
NS_HOLD_PARK and within the deadband, else the floor of m·Vs/M, or of m²·Vs/M² with the SQUARE curve, with the sign of the
deflection. The weighted blend is the numerator N over 65536, rounded to nearest with halves away from zero in one
rounding; |N| at most 65536·(|v_j| + |v_p|), below 2^47 for the ranges of the two velocities, and the exact symmetry of the
quotient. The follow term is v_src·Rf/256 rounded in the same way, v_src the velocity of a FRESH source entry, and v_req is
their sum. -/
def Obligations.BlendIsOneRoundedQuotient : Prop :=
  (∀ (vj vp : Int) (w sTrim : Nat), w ≤ 256 → sTrim ≤ 256 →
    let N := 256 * (256 - (w : Int)) * vj + 256 * w * vp + w * sTrim * vj
    let q := weightedBlend vj ⟨w, sTrim, vp⟩
    2 * |N - 65536 * q| ≤ 65536 ∧ (2 * |N - 65536 * q| = 65536 → |N| < |65536 * q|) ∧
    |N| ≤ 65536 * (|vj| + |vp|) ∧ (|vj| ≤ 262143 → |vp| ≤ 2048000000 → |N| < 2 ^ 47) ∧
    weightedBlend (-vj) ⟨w, sTrim, -vp⟩ = -q) ∧
  (∀ s : State,
    let D := s.start.profile.deadband
    let Vs := s.start.profile.vs
    (s.peers.stick = none → s.stickDemand = 0) ∧
    (∀ r, s.peers.stick = some r →
      (9 ≤ r.age ∨ r.enable = false ∨ s.axis.nodeState = .holdPark ∨ |r.d| ≤ D → s.stickDemand = 0) ∧
      (r.age ≤ 8 → r.enable = true → s.axis.nodeState ≠ .holdPark → 0 ≤ D → D < |r.d| → |r.d| ≤ 2047 → 1 ≤ Vs →
        let m := |r.d| - D
        let M := 2047 - D
        ∃ q : Int, s.stickDemand = (if 0 < r.d then q else -q) ∧ 0 ≤ q ∧ q ≤ Vs ∧
          (s.start.profile.curve = .linear → q * M ≤ m * Vs ∧ m * Vs < (q + 1) * M) ∧
          (s.start.profile.curve = .square → q * (M * M) ≤ m * m * Vs ∧ m * m * Vs < (q + 1) * (M * M)))) ∧
    (s.start.profile.followSource = none → s.sourceVelocity = 0) ∧
    (∀ n e, s.start.profile.followSource = some n → s.entry n = some e →
      s.sourceVelocity = if e.age ≤ 8 then e.velocity else 0) ∧
    (let P := s.sourceVelocity * s.start.profile.rf
     2 * |P - 256 * s.followTerm| ≤ 256 ∧ (2 * |P - 256 * s.followTerm| = 256 → |P| < |256 * s.followTerm|)) ∧
    s.requested = weightedBlend s.stickDemand s.moves.handOver + s.followTerm)

/-- The limiter chain. The target (R26 to R30): the greatest velocity not beyond v_req, in its direction, that no active
limit switch forbids, within V_axis_max, for SWING and LIFT within the tip speed at the extension found, and within the
braking envelope of the soft limit ahead; 0 at or beyond that limit. Stage 5 (R32, R33): the exact velocity it gives in
every case of the two signs. Its law (R35): the magnitude of v_c exceeds that of v_prev by at most the allowance and falls
short of it by at most A_high, and never passes the target's unless it is still coming down. The stopping ramp (R35, R40)
lowers the magnitude by A_stop, to 0 at least, and never raises it. -/
def Obligations.AccelerationLaw : Prop :=
  (∀ v vPrev aInc aHigh : Int, 0 ≤ aInc → 0 ≤ aHigh →
    let vc := accelerate v vPrev aInc aHigh
    |vc| ≤ |vPrev| + aInc ∧ |vPrev| - aHigh ≤ |vc| ∧ |vc| ≤ max |v| (|vPrev| - aHigh) ∧
    (0 ≤ v → 0 ≤ vPrev → vc = if vPrev ≤ v then min v (vPrev + aInc) else max v (vPrev - aHigh)) ∧
    (v ≤ 0 → vPrev ≤ 0 → vc = if v ≤ vPrev then max v (vPrev - aInc) else min v (vPrev + aHigh)) ∧
    (0 < v → vPrev < 0 → vc = if aHigh < -vPrev then vPrev + aHigh else min v aInc) ∧
    (v < 0 → 0 < vPrev → vc = if aHigh < vPrev then vPrev - aHigh else max v (-aInc))) ∧
  (∀ aStop vPrev : Int, 0 ≤ aStop →
    stopRamp aStop vPrev = if 0 ≤ vPrev then max 0 (vPrev - aStop) else min 0 (vPrev + aStop)) ∧
  (∀ (s : State) (vReq : Int),
    let p := s.start.profile
    let v := s.target vReq
    let up := p.pMax * 256 - s.limiter.S
    let down := s.limiter.S - p.pMin * 256
    let tipFits := fun x : Int => ∀ n, p.role.hasTip = true → p.extSource = some n →
      |x| * (p.r0 + (match s.entry n with
        | some e => if e.age ≤ 8 then max 0 (min p.lMax e.setpoint) else p.lMax
        | none => p.lMax)) ≤ p.tTip * 14667720
    let allowed := fun x : Int => |x| ≤ p.vAxisMax ∧ tipFits x ∧
      (0 < x → s.drive.lines.limitPos.active = false ∧ x ≤ up ∧ x * x ≤ 2 * p.aLow * up) ∧
      (x < 0 → s.drive.lines.limitNeg.active = false ∧ -x ≤ down ∧ x * x ≤ 2 * p.aLow * down)
    0 ≤ p.vAxisMax → 0 ≤ p.aLow → 0 ≤ p.lMax → 1 ≤ p.r0 → 0 ≤ p.tTip →
    allowed v ∧
    (0 ≤ vReq → 0 ≤ v ∧ v ≤ vReq ∧ ∀ x, 0 ≤ x → x ≤ vReq → allowed x → x ≤ v) ∧
    (vReq ≤ 0 → vReq ≤ v ∧ v ≤ 0 ∧ ∀ x, vReq ≤ x → x ≤ 0 → allowed x → v ≤ x))

/-- The limit guard (R37), in the operations that integrate: against each limit the new S stops at the limit or, from
outside it, does not move farther out; otherwise it is the result of R36. v_c is as stage 5 or the ramp left it, and the
third law holds. -/
def Obligations.LimitGuardLaw : Prop :=
  ∀ s : State, (s.axis.nodeState = .active ∨ s.axis.nodeState = .holdPark ∨ s.axis.nodeState = .stopping) →
    s.start.profile.pMin < s.start.profile.pMax →
    let hi := s.start.profile.pMax * 256
    let lo := s.start.profile.pMin * 256
    let S := s.limiter.S
    let t := s.operate
    let new := clampFine (S + t.limiter.vc)
    (S ≤ hi → hi < new → t.limiter.S = hi) ∧ (hi < S → S < new → t.limiter.S = S) ∧
    (lo ≤ S → new < lo → t.limiter.S = lo) ∧ (S < lo → new < S → t.limiter.S = S) ∧
    (lo ≤ new → new ≤ hi → t.limiter.S = new) ∧ (hi < new → new ≤ S → t.limiter.S = new) ∧
    (S ≤ new → new < lo → t.limiter.S = new) ∧
    (lo ≤ S → S ≤ hi → lo ≤ t.limiter.S ∧ t.limiter.S ≤ hi) ∧ (hi < S → t.limiter.S ≤ S) ∧
    (S < lo → S ≤ t.limiter.S) ∧
    (s.axis.nodeState ≠ .stopping →
      t.limiter.vc = accelerate (s.target s.requested) s.limiter.vc s.increase s.start.profile.aHigh ∧
      t.blend.F = clampFine (s.blend.F + s.followTerm)) ∧
    (s.axis.nodeState = .stopping → t.limiter.vc = stopRamp s.start.profile.aStop s.limiter.vc ∧
      t.blend.F = s.blend.F)

/-- The twelfth law (R49): an entry that is not FRESH gives no follow velocity, and the longest extension. -/
def Obligations.SilentPeerGivesTheSubstitutes : Prop :=
  ∀ (s : State) (n : Station), (∀ e, s.entry n = some e → 9 ≤ e.age) →
    (s.start.profile.followSource = some n → s.sourceVelocity = 0 ∧ s.followTerm = 0) ∧
    s.extension n = s.start.profile.lMax

/-- The eighth law (R96): over a segment crossed in any steps, from its beginning to its end, the preset contributions
sum to the segment's change of position. -/
def Obligations.SegmentContributionsSumToItsChange : Prop :=
  ∀ (p : Preset) (k : Nat) (ts : List Nat), p.wellFormed = true → k + 1 < p.keys.length →
    (∀ t ∈ ts, p.bound k ≤ t ∧ t ≤ p.bound (k + 1)) →
    let times := p.bound k :: ts ++ [p.bound (k + 1)]
    ((times.zip times.tail).map (fun x =>
      p.contribution (p.segIndex x.1) x.1 (p.segIndex x.2) x.2)).sum = p.posAt (k + 1) - p.posAt k

/-! ## Invariants -/

/-- The invariants hold in the state after reset. -/
def Obligations.InvariantsHoldAtReset : Prop :=
  AxisSafe State.reset ∧ OwedSafe State.reset ∧ LanesSafe State.reset ∧ SurgeSafe State.reset ∧
  StoreSafe State.reset ∧ MovesSafe State.reset ∧ State.reset.moves.serialsFit

/-- Every step keeps the axis invariant: outputs as the table of 8.1 has them, so never drive off with the brake
released (R133), v_c 0 in the states without motion and within V_axis_max everywhere (R24), contexts in NS_ACTIVE alone
(R88), a moving node's profile accepted (R134). -/
def Obligations.StepKeepsAxisSafe : Prop :=
  ∀ s t : State, AxisSafe s → step s = .next t → AxisSafe t

/-- Every step keeps the tenth law (R169), the owed count within 9 and at 9 the cause FC_LINK_STARVED, and each lane of
the transmit queue within its capacity (R165, R166, R168). -/
def Obligations.StepKeepsLinkSafe : Prop :=
  ∀ s t : State, step s = .next t → (OwedSafe s → OwedSafe t) ∧ (LanesSafe s → LanesSafe t)

/-- Every step keeps the fourth law (R63), at most four claims, none outliving 40 expiries, a grant of at most 25; and the
ninth (R125), at most 24 keyframes in the buffer, and well-formed records in the slots. -/
def Obligations.StepKeepsSurgeAndStoreSafe : Prop :=
  ∀ s t : State, step s = .next t → (SurgeSafe s → SurgeSafe t) ∧ (StoreSafe s → StoreSafe t)

/-- Every step keeps the fifth and the sixth law (R99 and section 5.1): weights within 0..256, timelines within
0..total, and a PENDING context only beside one that plays, or has finished with the PENDING one due. -/
def Obligations.StepKeepsMovesSafe : Prop :=
  ∀ s t : State, StoreSafe s → MovesSafe s → step s = .next t → MovesSafe t

/-- The seventh law (R78): past MP_GATHER, a step changes no context's participant set. Contexts are told apart by their
numbers (log entry 8), which every step keeps apart. -/
def Obligations.StepKeepsFrozenSets : Prop :=
  ∀ s t : State, s.moves.serialsFit → step s = .next t →
    t.moves.serialsFit ∧
    ∀ c, (s.moves.active = some c ∨ s.moves.pending = some c) → c.phase ≠ .gather →
    ∀ d, (t.moves.active = some d ∨ t.moves.pending = some d) → d.serial = c.serial →
    d.parts = c.parts ∧ d.phase ≠ .gather

/-! ## Encodings -/

/-- A frame with every field within its encoding, sent by a station, is received as that station's frame (R162, R181,
12.1). -/
def Obligations.SentFrameIsReceived : Prop :=
  ∀ (src : Station) (f : Frame), f.within = true → receiveFrame (f.bytes src) = some (src, f)
end

