-- ==== Sys2Proof/Laws/State.lean ====
section
/-! SUPPORT. One lemma per field per update: what each of the shared updates of the state writes, and that every other
field stands. -/

namespace Sys2Proof.Machine

@[simp] theorem State.hand_pending (s : State) (k : Lane) (q : Queued) : (s.hand k q).pending = s.pending := rfl
@[simp] theorem State.hand_start (s : State) (k : Lane) (q : Queued) : (s.hand k q).start = s.start := rfl
@[simp] theorem State.hand_link (s : State) (k : Lane) (q : Queued) : (s.hand k q).link = s.link.hand k q := rfl
@[simp] theorem State.hand_peers (s : State) (k : Lane) (q : Queued) : (s.hand k q).peers = s.peers := rfl
@[simp] theorem State.hand_blend (s : State) (k : Lane) (q : Queued) : (s.hand k q).blend = s.blend := rfl
@[simp] theorem State.hand_limiter (s : State) (k : Lane) (q : Queued) : (s.hand k q).limiter = s.limiter := rfl
@[simp] theorem State.hand_surge (s : State) (k : Lane) (q : Queued) : (s.hand k q).surge = s.surge := rfl
@[simp] theorem State.hand_moves (s : State) (k : Lane) (q : Queued) : (s.hand k q).moves = s.moves := rfl
@[simp] theorem State.hand_store (s : State) (k : Lane) (q : Queued) : (s.hand k q).store = s.store := rfl
@[simp] theorem State.hand_axis (s : State) (k : Lane) (q : Queued) : (s.hand k q).axis = s.axis := rfl
@[simp] theorem State.hand_drive (s : State) (k : Lane) (q : Queued) : (s.hand k q).drive = s.drive := rfl

@[simp] theorem State.answer_pending (s : State) (tag : Byte) (rc : ResultCode) : (s.answer tag rc).pending = s.pending := rfl
@[simp] theorem State.answer_start (s : State) (tag : Byte) (rc : ResultCode) : (s.answer tag rc).start = s.start := rfl
@[simp] theorem State.answer_link (s : State) (tag : Byte) (rc : ResultCode) : (s.answer tag rc).link = s.link.answer tag rc := rfl
@[simp] theorem State.answer_peers (s : State) (tag : Byte) (rc : ResultCode) : (s.answer tag rc).peers = s.peers := rfl
@[simp] theorem State.answer_blend (s : State) (tag : Byte) (rc : ResultCode) : (s.answer tag rc).blend = s.blend := rfl
@[simp] theorem State.answer_limiter (s : State) (tag : Byte) (rc : ResultCode) : (s.answer tag rc).limiter = s.limiter := rfl
@[simp] theorem State.answer_surge (s : State) (tag : Byte) (rc : ResultCode) : (s.answer tag rc).surge = s.surge := rfl
@[simp] theorem State.answer_moves (s : State) (tag : Byte) (rc : ResultCode) : (s.answer tag rc).moves = s.moves := rfl
@[simp] theorem State.answer_store (s : State) (tag : Byte) (rc : ResultCode) : (s.answer tag rc).store = s.store := rfl
@[simp] theorem State.answer_axis (s : State) (tag : Byte) (rc : ResultCode) : (s.answer tag rc).axis = s.axis := rfl
@[simp] theorem State.answer_drive (s : State) (tag : Byte) (rc : ResultCode) : (s.answer tag rc).drive = s.drive := rfl

@[simp] theorem State.handHold_pending (s : State) (id : Byte) : (s.handHold id).pending = s.pending := rfl
@[simp] theorem State.handHold_start (s : State) (id : Byte) : (s.handHold id).start = s.start := rfl
@[simp] theorem State.handHold_link (s : State) (id : Byte) : (s.handHold id).link = s.link.hand .cue (plain (.hold none id)) := rfl
@[simp] theorem State.handHold_peers (s : State) (id : Byte) : (s.handHold id).peers = s.peers := rfl
@[simp] theorem State.handHold_blend (s : State) (id : Byte) : (s.handHold id).blend = s.blend := rfl
@[simp] theorem State.handHold_limiter (s : State) (id : Byte) : (s.handHold id).limiter = s.limiter := rfl
@[simp] theorem State.handHold_surge (s : State) (id : Byte) : (s.handHold id).surge = s.surge := rfl
@[simp] theorem State.handHold_moves (s : State) (id : Byte) : (s.handHold id).moves = s.moves := rfl
@[simp] theorem State.handHold_store (s : State) (id : Byte) : (s.handHold id).store = s.store := rfl
@[simp] theorem State.handHold_axis (s : State) (id : Byte) : (s.handHold id).axis = s.axis := rfl
@[simp] theorem State.handHold_drive (s : State) (id : Byte) : (s.handHold id).drive = s.drive := rfl

@[simp] theorem State.handCancel_pending (s : State) (id : Byte) : (s.handCancel id).pending = s.pending := rfl
@[simp] theorem State.handCancel_start (s : State) (id : Byte) : (s.handCancel id).start = s.start := rfl
@[simp] theorem State.handCancel_link (s : State) (id : Byte) : (s.handCancel id).link = s.link.hand .cue (plain (.cancel none id)) := rfl
@[simp] theorem State.handCancel_peers (s : State) (id : Byte) : (s.handCancel id).peers = s.peers := rfl
@[simp] theorem State.handCancel_blend (s : State) (id : Byte) : (s.handCancel id).blend = s.blend := rfl
@[simp] theorem State.handCancel_limiter (s : State) (id : Byte) : (s.handCancel id).limiter = s.limiter := rfl
@[simp] theorem State.handCancel_surge (s : State) (id : Byte) : (s.handCancel id).surge = s.surge := rfl
@[simp] theorem State.handCancel_moves (s : State) (id : Byte) : (s.handCancel id).moves = s.moves := rfl
@[simp] theorem State.handCancel_store (s : State) (id : Byte) : (s.handCancel id).store = s.store := rfl
@[simp] theorem State.handCancel_axis (s : State) (id : Byte) : (s.handCancel id).axis = s.axis := rfl
@[simp] theorem State.handCancel_drive (s : State) (id : Byte) : (s.handCancel id).drive = s.drive := rfl

@[simp] theorem State.loopbackTaken_pending (s : State) : s.loopbackTaken.pending = s.pending := rfl
@[simp] theorem State.loopbackTaken_start (s : State) : s.loopbackTaken.start = s.start := rfl
@[simp] theorem State.loopbackTaken_link (s : State) : s.loopbackTaken.link = { s.link with departed := none } := rfl
@[simp] theorem State.loopbackTaken_peers (s : State) : s.loopbackTaken.peers = s.peers := rfl
@[simp] theorem State.loopbackTaken_blend (s : State) : s.loopbackTaken.blend = s.blend := rfl
@[simp] theorem State.loopbackTaken_limiter (s : State) : s.loopbackTaken.limiter = s.limiter := rfl
@[simp] theorem State.loopbackTaken_surge (s : State) : s.loopbackTaken.surge = s.surge := rfl
@[simp] theorem State.loopbackTaken_moves (s : State) : s.loopbackTaken.moves = s.moves := rfl
@[simp] theorem State.loopbackTaken_store (s : State) : s.loopbackTaken.store = s.store := rfl
@[simp] theorem State.loopbackTaken_axis (s : State) : s.loopbackTaken.axis = s.axis := rfl
@[simp] theorem State.loopbackTaken_drive (s : State) : s.loopbackTaken.drive = s.drive := rfl

@[simp] theorem State.heard_pending (s : State) : s.heard.pending = s.pending := rfl
@[simp] theorem State.heard_start (s : State) : s.heard.start = s.start := rfl
@[simp] theorem State.heard_link (s : State) : s.heard.link = { s.link with departed := none } := rfl
@[simp] theorem State.heard_peers (s : State) : s.heard.peers = s.peers := rfl
@[simp] theorem State.heard_blend (s : State) : s.heard.blend = s.blend := rfl
@[simp] theorem State.heard_limiter (s : State) : s.heard.limiter = s.limiter := rfl
@[simp] theorem State.heard_surge (s : State) : s.heard.surge = s.surge := rfl
@[simp] theorem State.heard_moves (s : State) : s.heard.moves = s.moves := rfl
@[simp] theorem State.heard_store (s : State) : s.heard.store = s.store := rfl
@[simp] theorem State.heard_axis (s : State) : s.heard.axis = s.axis := rfl
@[simp] theorem State.heard_drive (s : State) : s.heard.drive = s.drive := rfl

@[simp] theorem State.putContext_pending (s : State) (p : Place) (c : Option Context) : (s.putContext p c).pending = s.pending := rfl
@[simp] theorem State.putContext_start (s : State) (p : Place) (c : Option Context) : (s.putContext p c).start = s.start := rfl
@[simp] theorem State.putContext_link (s : State) (p : Place) (c : Option Context) : (s.putContext p c).link = s.link := rfl
@[simp] theorem State.putContext_peers (s : State) (p : Place) (c : Option Context) : (s.putContext p c).peers = s.peers := rfl
@[simp] theorem State.putContext_blend (s : State) (p : Place) (c : Option Context) : (s.putContext p c).blend = s.blend := rfl
@[simp] theorem State.putContext_limiter (s : State) (p : Place) (c : Option Context) : (s.putContext p c).limiter = s.limiter := rfl
@[simp] theorem State.putContext_surge (s : State) (p : Place) (c : Option Context) : (s.putContext p c).surge = s.surge := rfl
@[simp] theorem State.putContext_moves (s : State) (p : Place) (c : Option Context) : (s.putContext p c).moves = s.moves.put p c := rfl
@[simp] theorem State.putContext_store (s : State) (p : Place) (c : Option Context) : (s.putContext p c).store = s.store := rfl
@[simp] theorem State.putContext_axis (s : State) (p : Place) (c : Option Context) : (s.putContext p c).axis = s.axis := rfl
@[simp] theorem State.putContext_drive (s : State) (p : Place) (c : Option Context) : (s.putContext p c).drive = s.drive := rfl

@[simp] theorem State.mapActive_pending (s : State) (f : Context → Context) : (s.mapActive f).pending = s.pending := rfl
@[simp] theorem State.mapActive_start (s : State) (f : Context → Context) : (s.mapActive f).start = s.start := rfl
@[simp] theorem State.mapActive_link (s : State) (f : Context → Context) : (s.mapActive f).link = s.link := rfl
@[simp] theorem State.mapActive_peers (s : State) (f : Context → Context) : (s.mapActive f).peers = s.peers := rfl
@[simp] theorem State.mapActive_blend (s : State) (f : Context → Context) : (s.mapActive f).blend = s.blend := rfl
@[simp] theorem State.mapActive_limiter (s : State) (f : Context → Context) : (s.mapActive f).limiter = s.limiter := rfl
@[simp] theorem State.mapActive_surge (s : State) (f : Context → Context) : (s.mapActive f).surge = s.surge := rfl
@[simp] theorem State.mapActive_moves (s : State) (f : Context → Context) : (s.mapActive f).moves = { s.moves with active := s.moves.active.map f } := rfl
@[simp] theorem State.mapActive_store (s : State) (f : Context → Context) : (s.mapActive f).store = s.store := rfl
@[simp] theorem State.mapActive_axis (s : State) (f : Context → Context) : (s.mapActive f).axis = s.axis := rfl
@[simp] theorem State.mapActive_drive (s : State) (f : Context → Context) : (s.mapActive f).drive = s.drive := rfl

@[simp] theorem State.setAbandon_pending (s : State) (a : AbandonReason) : (s.setAbandon a).pending = s.pending := rfl
@[simp] theorem State.setAbandon_start (s : State) (a : AbandonReason) : (s.setAbandon a).start = s.start := rfl
@[simp] theorem State.setAbandon_link (s : State) (a : AbandonReason) : (s.setAbandon a).link = s.link := rfl
@[simp] theorem State.setAbandon_peers (s : State) (a : AbandonReason) : (s.setAbandon a).peers = s.peers := rfl
@[simp] theorem State.setAbandon_blend (s : State) (a : AbandonReason) : (s.setAbandon a).blend = s.blend := rfl
@[simp] theorem State.setAbandon_limiter (s : State) (a : AbandonReason) : (s.setAbandon a).limiter = s.limiter := rfl
@[simp] theorem State.setAbandon_surge (s : State) (a : AbandonReason) : (s.setAbandon a).surge = s.surge := rfl
@[simp] theorem State.setAbandon_moves (s : State) (a : AbandonReason) : (s.setAbandon a).moves = { s.moves with lastAbandon := some a } := rfl
@[simp] theorem State.setAbandon_store (s : State) (a : AbandonReason) : (s.setAbandon a).store = s.store := rfl
@[simp] theorem State.setAbandon_axis (s : State) (a : AbandonReason) : (s.setAbandon a).axis = s.axis := rfl
@[simp] theorem State.setAbandon_drive (s : State) (a : AbandonReason) : (s.setAbandon a).drive = s.drive := rfl

@[simp] theorem State.giveHandOver_pending (s : State) (vp : Int) : (s.giveHandOver vp).pending = s.pending := rfl
@[simp] theorem State.giveHandOver_start (s : State) (vp : Int) : (s.giveHandOver vp).start = s.start := rfl
@[simp] theorem State.giveHandOver_link (s : State) (vp : Int) : (s.giveHandOver vp).link = s.link := rfl
@[simp] theorem State.giveHandOver_peers (s : State) (vp : Int) : (s.giveHandOver vp).peers = s.peers := rfl
@[simp] theorem State.giveHandOver_blend (s : State) (vp : Int) : (s.giveHandOver vp).blend = s.blend := rfl
@[simp] theorem State.giveHandOver_limiter (s : State) (vp : Int) : (s.giveHandOver vp).limiter = s.limiter := rfl
@[simp] theorem State.giveHandOver_surge (s : State) (vp : Int) : (s.giveHandOver vp).surge = s.surge := rfl
@[simp] theorem State.giveHandOver_moves (s : State) (vp : Int) : (s.giveHandOver vp).moves = { s.moves with handOver := handOverOf s.moves.active vp } := rfl
@[simp] theorem State.giveHandOver_store (s : State) (vp : Int) : (s.giveHandOver vp).store = s.store := rfl
@[simp] theorem State.giveHandOver_axis (s : State) (vp : Int) : (s.giveHandOver vp).axis = s.axis := rfl
@[simp] theorem State.giveHandOver_drive (s : State) (vp : Int) : (s.giveHandOver vp).drive = s.drive := rfl

@[simp] theorem State.setCause_pending (s : State) (c : FaultCause) : (s.setCause c).pending = s.pending := rfl
@[simp] theorem State.setCause_start (s : State) (c : FaultCause) : (s.setCause c).start = s.start := rfl
@[simp] theorem State.setCause_link (s : State) (c : FaultCause) : (s.setCause c).link = s.link := rfl
@[simp] theorem State.setCause_peers (s : State) (c : FaultCause) : (s.setCause c).peers = s.peers := rfl
@[simp] theorem State.setCause_blend (s : State) (c : FaultCause) : (s.setCause c).blend = s.blend := rfl
@[simp] theorem State.setCause_limiter (s : State) (c : FaultCause) : (s.setCause c).limiter = s.limiter := rfl
@[simp] theorem State.setCause_surge (s : State) (c : FaultCause) : (s.setCause c).surge = s.surge := rfl
@[simp] theorem State.setCause_moves (s : State) (c : FaultCause) : (s.setCause c).moves = s.moves := rfl
@[simp] theorem State.setCause_store (s : State) (c : FaultCause) : (s.setCause c).store = s.store := rfl
@[simp] theorem State.setCause_axis (s : State) (c : FaultCause) : (s.setCause c).axis = { s.axis with cause := c } := rfl
@[simp] theorem State.setCause_drive (s : State) (c : FaultCause) : (s.setCause c).drive = s.drive := rfl

@[simp] theorem State.setBuffer_pending (s : State) (b : List Keyframe) : (s.setBuffer b).pending = s.pending := rfl
@[simp] theorem State.setBuffer_start (s : State) (b : List Keyframe) : (s.setBuffer b).start = s.start := rfl
@[simp] theorem State.setBuffer_link (s : State) (b : List Keyframe) : (s.setBuffer b).link = s.link := rfl
@[simp] theorem State.setBuffer_peers (s : State) (b : List Keyframe) : (s.setBuffer b).peers = s.peers := rfl
@[simp] theorem State.setBuffer_blend (s : State) (b : List Keyframe) : (s.setBuffer b).blend = s.blend := rfl
@[simp] theorem State.setBuffer_limiter (s : State) (b : List Keyframe) : (s.setBuffer b).limiter = s.limiter := rfl
@[simp] theorem State.setBuffer_surge (s : State) (b : List Keyframe) : (s.setBuffer b).surge = s.surge := rfl
@[simp] theorem State.setBuffer_moves (s : State) (b : List Keyframe) : (s.setBuffer b).moves = s.moves := rfl
@[simp] theorem State.setBuffer_store (s : State) (b : List Keyframe) : (s.setBuffer b).store = { s.store with buffer := b } := rfl
@[simp] theorem State.setBuffer_axis (s : State) (b : List Keyframe) : (s.setBuffer b).axis = s.axis := rfl
@[simp] theorem State.setBuffer_drive (s : State) (b : List Keyframe) : (s.setBuffer b).drive = s.drive := rfl

@[simp] theorem State.writeEntry_pending (s : State) (n : Station) (e : PeerEntry) : (s.writeEntry n e).pending = s.pending := rfl
@[simp] theorem State.writeEntry_start (s : State) (n : Station) (e : PeerEntry) : (s.writeEntry n e).start = s.start := rfl
@[simp] theorem State.writeEntry_link (s : State) (n : Station) (e : PeerEntry) : (s.writeEntry n e).link = s.link := rfl
@[simp] theorem State.writeEntry_peers (s : State) (n : Station) (e : PeerEntry) : (s.writeEntry n e).peers = { s.peers with entries := s.peers.entries.set n.val (some e) } := rfl
@[simp] theorem State.writeEntry_blend (s : State) (n : Station) (e : PeerEntry) : (s.writeEntry n e).blend = s.blend := rfl
@[simp] theorem State.writeEntry_limiter (s : State) (n : Station) (e : PeerEntry) : (s.writeEntry n e).limiter = s.limiter := rfl
@[simp] theorem State.writeEntry_surge (s : State) (n : Station) (e : PeerEntry) : (s.writeEntry n e).surge = s.surge := rfl
@[simp] theorem State.writeEntry_moves (s : State) (n : Station) (e : PeerEntry) : (s.writeEntry n e).moves = s.moves := rfl
@[simp] theorem State.writeEntry_store (s : State) (n : Station) (e : PeerEntry) : (s.writeEntry n e).store = s.store := rfl
@[simp] theorem State.writeEntry_axis (s : State) (n : Station) (e : PeerEntry) : (s.writeEntry n e).axis = s.axis := rfl
@[simp] theorem State.writeEntry_drive (s : State) (n : Station) (e : PeerEntry) : (s.writeEntry n e).drive = s.drive := rfl

@[simp] theorem State.ageStick_pending (s : State) : s.ageStick.pending = s.pending := rfl
@[simp] theorem State.ageStick_start (s : State) : s.ageStick.start = s.start := rfl
@[simp] theorem State.ageStick_link (s : State) : s.ageStick.link = s.link := rfl
@[simp] theorem State.ageStick_peers (s : State) : s.ageStick.peers = { s.peers with stick := s.peers.stick.map (fun r => { r with age := older r.age }) } := rfl
@[simp] theorem State.ageStick_blend (s : State) : s.ageStick.blend = s.blend := rfl
@[simp] theorem State.ageStick_limiter (s : State) : s.ageStick.limiter = s.limiter := rfl
@[simp] theorem State.ageStick_surge (s : State) : s.ageStick.surge = s.surge := rfl
@[simp] theorem State.ageStick_moves (s : State) : s.ageStick.moves = s.moves := rfl
@[simp] theorem State.ageStick_store (s : State) : s.ageStick.store = s.store := rfl
@[simp] theorem State.ageStick_axis (s : State) : s.ageStick.axis = s.axis := rfl
@[simp] theorem State.ageStick_drive (s : State) : s.ageStick.drive = s.drive := rfl

@[simp] theorem State.claimArrives_pending (s : State) (src : Station) (own : Bool) : (s.claimArrives src own).pending = s.pending := rfl
@[simp] theorem State.claimArrives_start (s : State) (src : Station) (own : Bool) : (s.claimArrives src own).start = s.start := rfl
@[simp] theorem State.claimArrives_link (s : State) (src : Station) (own : Bool) : (s.claimArrives src own).link = s.link := rfl
@[simp] theorem State.claimArrives_peers (s : State) (src : Station) (own : Bool) : (s.claimArrives src own).peers = s.peers := rfl
@[simp] theorem State.claimArrives_blend (s : State) (src : Station) (own : Bool) : (s.claimArrives src own).blend = s.blend := rfl
@[simp] theorem State.claimArrives_limiter (s : State) (src : Station) (own : Bool) : (s.claimArrives src own).limiter = s.limiter := rfl
@[simp] theorem State.claimArrives_moves (s : State) (src : Station) (own : Bool) : (s.claimArrives src own).moves = s.moves := rfl
@[simp] theorem State.claimArrives_store (s : State) (src : Station) (own : Bool) : (s.claimArrives src own).store = s.store := rfl
@[simp] theorem State.claimArrives_axis (s : State) (src : Station) (own : Bool) : (s.claimArrives src own).axis = s.axis := rfl
@[simp] theorem State.claimArrives_drive (s : State) (src : Station) (own : Bool) : (s.claimArrives src own).drive = s.drive := rfl

@[simp] theorem State.surgeReaction_pending (s : State) : s.surgeReaction.pending = s.pending := rfl
@[simp] theorem State.surgeReaction_start (s : State) : s.surgeReaction.start = s.start := rfl
@[simp] theorem State.surgeReaction_link (s : State) : s.surgeReaction.link = s.link := rfl
@[simp] theorem State.surgeReaction_peers (s : State) : s.surgeReaction.peers = s.peers := rfl
@[simp] theorem State.surgeReaction_blend (s : State) : s.surgeReaction.blend = s.blend := rfl
@[simp] theorem State.surgeReaction_limiter (s : State) : s.surgeReaction.limiter = s.limiter := rfl
@[simp] theorem State.surgeReaction_surge (s : State) : s.surgeReaction.surge = Surge.statusStep { s.surge with window := agedWindow s.surge.window } := rfl
@[simp] theorem State.surgeReaction_moves (s : State) : s.surgeReaction.moves = s.moves := rfl
@[simp] theorem State.surgeReaction_store (s : State) : s.surgeReaction.store = s.store := rfl
@[simp] theorem State.surgeReaction_axis (s : State) : s.surgeReaction.axis = s.axis := rfl
@[simp] theorem State.surgeReaction_drive (s : State) : s.surgeReaction.drive = s.drive := rfl

@[simp] theorem State.storeFails_pending (s : State) (op : OpRecord) : (s.storeFails op).pending = s.pending := rfl
@[simp] theorem State.storeFails_start (s : State) (op : OpRecord) : (s.storeFails op).start = s.start := rfl
@[simp] theorem State.storeFails_link (s : State) (op : OpRecord) : (s.storeFails op).link = s.link.answer op.tag .storeFailed := rfl
@[simp] theorem State.storeFails_peers (s : State) (op : OpRecord) : (s.storeFails op).peers = s.peers := rfl
@[simp] theorem State.storeFails_blend (s : State) (op : OpRecord) : (s.storeFails op).blend = s.blend := rfl
@[simp] theorem State.storeFails_limiter (s : State) (op : OpRecord) : (s.storeFails op).limiter = s.limiter := rfl
@[simp] theorem State.storeFails_surge (s : State) (op : OpRecord) : (s.storeFails op).surge = s.surge := rfl
@[simp] theorem State.storeFails_moves (s : State) (op : OpRecord) : (s.storeFails op).moves = s.moves := rfl
@[simp] theorem State.storeFails_store (s : State) (op : OpRecord) : (s.storeFails op).store = { s.store with slots := s.store.slots.set op.slot .invalid, op := .locked } := rfl
@[simp] theorem State.storeFails_axis (s : State) (op : OpRecord) : (s.storeFails op).axis = s.axis := rfl
@[simp] theorem State.storeFails_drive (s : State) (op : OpRecord) : (s.storeFails op).drive = s.drive := rfl

@[simp] theorem State.beginOp_pending (s : State) (slot : Fin 48) (d : Slot) (op : StoreOp) : (s.beginOp slot d op).pending = s.pending := rfl
@[simp] theorem State.beginOp_start (s : State) (slot : Fin 48) (d : Slot) (op : StoreOp) : (s.beginOp slot d op).start = s.start := rfl
@[simp] theorem State.beginOp_link (s : State) (slot : Fin 48) (d : Slot) (op : StoreOp) : (s.beginOp slot d op).link = s.link := rfl
@[simp] theorem State.beginOp_peers (s : State) (slot : Fin 48) (d : Slot) (op : StoreOp) : (s.beginOp slot d op).peers = s.peers := rfl
@[simp] theorem State.beginOp_blend (s : State) (slot : Fin 48) (d : Slot) (op : StoreOp) : (s.beginOp slot d op).blend = s.blend := rfl
@[simp] theorem State.beginOp_limiter (s : State) (slot : Fin 48) (d : Slot) (op : StoreOp) : (s.beginOp slot d op).limiter = s.limiter := rfl
@[simp] theorem State.beginOp_surge (s : State) (slot : Fin 48) (d : Slot) (op : StoreOp) : (s.beginOp slot d op).surge = s.surge := rfl
@[simp] theorem State.beginOp_moves (s : State) (slot : Fin 48) (d : Slot) (op : StoreOp) : (s.beginOp slot d op).moves = s.moves := rfl
@[simp] theorem State.beginOp_axis (s : State) (slot : Fin 48) (d : Slot) (op : StoreOp) : (s.beginOp slot d op).axis = s.axis := rfl
@[simp] theorem State.beginOp_drive (s : State) (slot : Fin 48) (d : Slot) (op : StoreOp) : (s.beginOp slot d op).drive = s.drive := rfl

@[simp] theorem State.storeDone_pending (s : State) (op : OpRecord) : (s.storeDone op).pending = s.pending := rfl
@[simp] theorem State.storeDone_start (s : State) (op : OpRecord) : (s.storeDone op).start = s.start := rfl
@[simp] theorem State.storeDone_link (s : State) (op : OpRecord) : (s.storeDone op).link = s.link := rfl
@[simp] theorem State.storeDone_peers (s : State) (op : OpRecord) : (s.storeDone op).peers = s.peers := rfl
@[simp] theorem State.storeDone_blend (s : State) (op : OpRecord) : (s.storeDone op).blend = s.blend := rfl
@[simp] theorem State.storeDone_limiter (s : State) (op : OpRecord) : (s.storeDone op).limiter = s.limiter := rfl
@[simp] theorem State.storeDone_surge (s : State) (op : OpRecord) : (s.storeDone op).surge = s.surge := rfl
@[simp] theorem State.storeDone_moves (s : State) (op : OpRecord) : (s.storeDone op).moves = s.moves := rfl
@[simp] theorem State.storeDone_axis (s : State) (op : OpRecord) : (s.storeDone op).axis = s.axis := rfl
@[simp] theorem State.storeDone_drive (s : State) (op : OpRecord) : (s.storeDone op).drive = s.drive := rfl

@[simp] theorem State.decideProfile_pending (s : State) (answered : List Byte) : (s.decideProfile answered).pending = s.pending := rfl
@[simp] theorem State.decideProfile_link (s : State) (answered : List Byte) : (s.decideProfile answered).link = s.link := rfl
@[simp] theorem State.decideProfile_peers (s : State) (answered : List Byte) : (s.decideProfile answered).peers = s.peers := rfl
@[simp] theorem State.decideProfile_blend (s : State) (answered : List Byte) : (s.decideProfile answered).blend = s.blend := rfl
@[simp] theorem State.decideProfile_limiter (s : State) (answered : List Byte) : (s.decideProfile answered).limiter = s.limiter := rfl
@[simp] theorem State.decideProfile_surge (s : State) (answered : List Byte) : (s.decideProfile answered).surge = s.surge := rfl
@[simp] theorem State.decideProfile_moves (s : State) (answered : List Byte) : (s.decideProfile answered).moves = s.moves := rfl
@[simp] theorem State.decideProfile_store (s : State) (answered : List Byte) : (s.decideProfile answered).store = s.store := rfl
@[simp] theorem State.decideProfile_axis (s : State) (answered : List Byte) : (s.decideProfile answered).axis = s.axis := rfl
@[simp] theorem State.decideProfile_drive (s : State) (answered : List Byte) : (s.decideProfile answered).drive = s.drive := rfl

@[simp] theorem State.handedOver_pending (s : State) (n : NodeState) : (s.handedOver n).pending = s.pending := rfl
@[simp] theorem State.handedOver_start (s : State) (n : NodeState) : (s.handedOver n).start = s.start := rfl
@[simp] theorem State.handedOver_link (s : State) (n : NodeState) : (s.handedOver n).link = s.link.placeState s.stateReport := rfl
@[simp] theorem State.handedOver_peers (s : State) (n : NodeState) : (s.handedOver n).peers = s.peers := rfl
@[simp] theorem State.handedOver_blend (s : State) (n : NodeState) : (s.handedOver n).blend = s.blend := rfl
@[simp] theorem State.handedOver_limiter (s : State) (n : NodeState) : (s.handedOver n).limiter = s.limiter := rfl
@[simp] theorem State.handedOver_surge (s : State) (n : NodeState) : (s.handedOver n).surge = s.surge := rfl
@[simp] theorem State.handedOver_moves (s : State) (n : NodeState) : (s.handedOver n).moves = s.moves := rfl
@[simp] theorem State.handedOver_store (s : State) (n : NodeState) : (s.handedOver n).store = s.store := rfl
@[simp] theorem State.handedOver_axis (s : State) (n : NodeState) : (s.handedOver n).axis = s.axis := rfl

@[simp] theorem State.trackOperation_pending (s : State) : s.trackOperation.pending = s.pending := rfl
@[simp] theorem State.trackOperation_start (s : State) : s.trackOperation.start = s.start := rfl
@[simp] theorem State.trackOperation_link (s : State) : s.trackOperation.link = s.link := rfl
@[simp] theorem State.trackOperation_peers (s : State) : s.trackOperation.peers = s.peers := rfl
@[simp] theorem State.trackOperation_blend (s : State) : s.trackOperation.blend = s.blend := rfl
@[simp] theorem State.trackOperation_limiter (s : State) : s.trackOperation.limiter = ⟨(s.drive.actual.map trackedSetpoint).getD s.limiter.S, 0, 0⟩ := rfl
@[simp] theorem State.trackOperation_surge (s : State) : s.trackOperation.surge = s.surge := rfl
@[simp] theorem State.trackOperation_moves (s : State) : s.trackOperation.moves = s.moves := rfl
@[simp] theorem State.trackOperation_store (s : State) : s.trackOperation.store = s.store := rfl
@[simp] theorem State.trackOperation_axis (s : State) : s.trackOperation.axis = s.axis := rfl
@[simp] theorem State.trackOperation_drive (s : State) : s.trackOperation.drive = s.drive := rfl

@[simp] theorem State.holdOperation_pending (s : State) : s.holdOperation.pending = s.pending := rfl
@[simp] theorem State.holdOperation_start (s : State) : s.holdOperation.start = s.start := rfl
@[simp] theorem State.holdOperation_link (s : State) : s.holdOperation.link = s.link := rfl
@[simp] theorem State.holdOperation_peers (s : State) : s.holdOperation.peers = s.peers := rfl
@[simp] theorem State.holdOperation_blend (s : State) : s.holdOperation.blend = s.blend := rfl
@[simp] theorem State.holdOperation_limiter (s : State) : s.holdOperation.limiter = ⟨s.limiter.S, 0, 0⟩ := rfl
@[simp] theorem State.holdOperation_surge (s : State) : s.holdOperation.surge = s.surge := rfl
@[simp] theorem State.holdOperation_moves (s : State) : s.holdOperation.moves = s.moves := rfl
@[simp] theorem State.holdOperation_store (s : State) : s.holdOperation.store = s.store := rfl
@[simp] theorem State.holdOperation_axis (s : State) : s.holdOperation.axis = s.axis := rfl
@[simp] theorem State.holdOperation_drive (s : State) : s.holdOperation.drive = s.drive := rfl

@[simp] theorem State.stopOperation_pending (s : State) : s.stopOperation.pending = s.pending := rfl
@[simp] theorem State.stopOperation_start (s : State) : s.stopOperation.start = s.start := rfl
@[simp] theorem State.stopOperation_link (s : State) : s.stopOperation.link = s.link := rfl
@[simp] theorem State.stopOperation_peers (s : State) : s.stopOperation.peers = s.peers := rfl
@[simp] theorem State.stopOperation_blend (s : State) : s.stopOperation.blend = s.blend := rfl
@[simp] theorem State.stopOperation_surge (s : State) : s.stopOperation.surge = s.surge := rfl
@[simp] theorem State.stopOperation_moves (s : State) : s.stopOperation.moves = s.moves := rfl
@[simp] theorem State.stopOperation_store (s : State) : s.stopOperation.store = s.store := rfl
@[simp] theorem State.stopOperation_axis (s : State) : s.stopOperation.axis = s.axis := rfl
@[simp] theorem State.stopOperation_drive (s : State) : s.stopOperation.drive = s.drive := rfl

end Sys2Proof.Machine
end

