-- ==== Sys2Proof/Laws/Queue.lean ====
section
/-! SUPPORT. What the operations of the transmit queue do (10.5): each lane under a lane's replacement, a hand-over, a
withdrawal and the line's taking, and how many frames count against a lane. -/

namespace Sys2Proof.Machine

theorem Lane.mem_all (k : Lane) : k ∈ Lane.all := by cases k <;> decide

@[simp] theorem Link.setLane_lane (l : Link) (k : Lane) (q : List Queued) : (l.setLane k q).lane k = q := by
  cases k <;> rfl

theorem Link.setLane_lane_ne (l : Link) {j k : Lane} (q : List Queued) (h : j ≠ k) :
    (l.setLane k q).lane j = l.lane j := by
  cases k <;> cases j <;> first | rfl | exact absurd rfl h

@[simp] theorem Link.setLane_onLine (l : Link) (k : Lane) (q : List Queued) : (l.setLane k q).onLine = l.onLine := by
  cases k <;> rfl
@[simp] theorem Link.setLane_departed (l : Link) (k : Lane) (q : List Queued) :
    (l.setLane k q).departed = l.departed := by cases k <;> rfl
@[simp] theorem Link.setLane_owed (l : Link) (k : Lane) (q : List Queued) : (l.setLane k q).owed = l.owed := by
  cases k <;> rfl
@[simp] theorem Link.setLane_echo (l : Link) (k : Lane) (q : List Queued) : (l.setLane k q).echo = l.echo := by
  cases k <;> rfl

/-- A lane replaced by itself. -/
@[simp] theorem Link.setLane_self (l : Link) (k : Lane) : l.setLane k (l.lane k) = l := by cases k <;> rfl

@[simp] theorem Link.setLane_laneOnLine (l : Link) (k j : Lane) (q : List Queued) :
    (l.setLane k q).laneOnLine j = l.laneOnLine j := by simp [Link.laneOnLine]

theorem Link.setLane_load (l : Link) (k : Lane) (q : List Queued) :
    (l.setLane k q).load k + (l.lane k).length = l.load k + q.length := by
  unfold Link.load; rw [Link.setLane_laneOnLine, Link.setLane_lane]; omega

theorem Link.setLane_load_ne (l : Link) {j k : Lane} (q : List Queued) (h : j ≠ k) :
    (l.setLane k q).load j = l.load j := by
  unfold Link.load; rw [Link.setLane_laneOnLine, Link.setLane_lane_ne _ _ h]

/-! ## Handing -/

/-- A frame handed to a lane with room goes to its end (R166). -/
theorem Link.hand_of_room {l : Link} {k : Lane} (h : l.load k < k.capacity) (q : Queued) :
    l.hand k q = l.setLane k (l.lane k ++ [q]) := by simp [Link.hand, Link.room, h]

/-- A frame handed to a full lane is dropped (R166). -/
theorem Link.hand_of_full {l : Link} {k : Lane} (h : k.capacity ≤ l.load k) (q : Queued) : l.hand k q = l := by
  simp [Link.hand, Link.room, Nat.not_lt.mpr h]

theorem Link.hand_lane_ne (l : Link) {j k : Lane} (q : Queued) (h : j ≠ k) : (l.hand k q).lane j = l.lane j := by
  unfold Link.hand; split
  · exact l.setLane_lane_ne _ h
  · rfl

@[simp] theorem Link.hand_onLine (l : Link) (k : Lane) (q : Queued) : (l.hand k q).onLine = l.onLine := by
  unfold Link.hand; split <;> simp
@[simp] theorem Link.hand_departed (l : Link) (k : Lane) (q : Queued) : (l.hand k q).departed = l.departed := by
  unfold Link.hand; split <;> simp
@[simp] theorem Link.hand_owed (l : Link) (k : Lane) (q : Queued) : (l.hand k q).owed = l.owed := by
  unfold Link.hand; split <;> simp
@[simp] theorem Link.hand_echo (l : Link) (k : Lane) (q : Queued) : (l.hand k q).echo = l.echo := by
  unfold Link.hand; split <;> simp

/-- Handing keeps every lane within its capacity. -/
theorem Link.hand_fits {l : Link} (k : Lane) (q : Queued) (h : ∀ j ∈ Lane.all, l.load j ≤ j.capacity) :
    ∀ j ∈ Lane.all, (l.hand k q).load j ≤ j.capacity := by
  intro j hj
  by_cases hr : l.load k < k.capacity
  · rw [Link.hand_of_room hr]
    by_cases hjk : j = k
    · subst hjk
      have := l.setLane_load j (l.lane j ++ [q])
      simp only [List.length_append, List.length_singleton] at this
      omega
    · rw [Link.setLane_load_ne _ _ hjk]; exact h j hj
  · rw [Link.hand_of_full (Nat.not_lt.mp hr)]; exact h j hj

/-! ## Withdrawing -/

/-- A withdrawal empties the lane of the frames it selects (R167). -/
theorem Link.withdraw_lane (l : Link) (k : Lane) (sel : Queued → Bool) :
    (l.withdraw k sel).lane k = (l.lane k).filter (fun q => !sel q) := by cases k <;> rfl

theorem Link.withdraw_lane_ne (l : Link) {j k : Lane} (sel : Queued → Bool) (h : j ≠ k) :
    (l.withdraw k sel).lane j = l.lane j := by
  cases k <;> cases j <;> first | rfl | exact absurd rfl h

@[simp] theorem Link.withdraw_departed (l : Link) (k : Lane) (sel : Queued → Bool) :
    (l.withdraw k sel).departed = l.departed := by cases k <;> rfl
@[simp] theorem Link.withdraw_owed (l : Link) (k : Lane) (sel : Queued → Bool) :
    (l.withdraw k sel).owed = l.owed := by cases k <;> rfl
@[simp] theorem Link.withdraw_echo (l : Link) (k : Lane) (sel : Queued → Bool) :
    (l.withdraw k sel).echo = l.echo := by cases k <;> rfl

/-- A withdrawal leaves the frame on the line on its lane. -/
@[simp] theorem Link.withdraw_laneOnLine (l : Link) (k j : Lane) (sel : Queued → Bool) :
    (l.withdraw k sel).laneOnLine j = l.laneOnLine j := by
  simp only [Link.withdraw, Link.laneOnLine]
  cases l.onLine with
  | none => rfl
  | some o => simp only [Option.map_some, Option.any_some]; split <;> rfl

/-- A withdrawal adds no frame to any lane. -/
theorem Link.withdraw_load_le (l : Link) (k : Lane) (sel : Queued → Bool) (j : Lane) :
    (l.withdraw k sel).load j ≤ l.load j := by
  simp only [Link.load, Link.withdraw_laneOnLine]
  by_cases h : j = k
  · subst h
    rw [Link.withdraw_lane]
    have := List.length_filter_le (fun q => !sel q) (l.lane j)
    omega
  · rw [Link.withdraw_lane_ne _ _ h]

@[simp] theorem Link.withdrawSurge_owed (l : Link) : l.withdrawSurge.owed = l.owed := Link.withdraw_owed ..
@[simp] theorem Link.withdrawSurge_echo (l : Link) : l.withdrawSurge.echo = l.echo := Link.withdraw_echo ..
@[simp] theorem Link.withdrawSurge_departed (l : Link) : l.withdrawSurge.departed = l.departed :=
  Link.withdraw_departed ..

@[simp] theorem joinTakenBack_owed (l : Link) (c : Context) : (joinTakenBack l c).owed = l.owed := by
  unfold joinTakenBack; split <;> simp [Link.withdrawJoin]
@[simp] theorem joinTakenBack_echo (l : Link) (c : Context) : (joinTakenBack l c).echo = l.echo := by
  unfold joinTakenBack; split <;> simp [Link.withdrawJoin]
@[simp] theorem joinTakenBack_departed (l : Link) (c : Context) : (joinTakenBack l c).departed = l.departed := by
  unfold joinTakenBack; split <;> simp [Link.withdrawJoin]

theorem joinTakenBack_load_le (l : Link) (c : Context) (j : Lane) : (joinTakenBack l c).load j ≤ l.load j := by
  unfold joinTakenBack; split
  · exact l.withdraw_load_le ..
  · exact le_refl _

/-- A JOIN taken back leaves every lane but CUE. -/
theorem joinTakenBack_lane (l : Link) (c : Context) {j : Lane} (h : j ≠ .cue) :
    (joinTakenBack l c).lane j = l.lane j := by
  unfold joinTakenBack; split
  · exact l.withdraw_lane_ne _ h
  · rfl

/-- A discard in MP_GATHER takes the JOIN back (R80). -/
theorem joinWithdrawn_gather (l : Link) {c : Context} (h : c.phase = .gather) :
    joinWithdrawn l c = joinTakenBack l c := if_pos h

@[simp] theorem joinWithdrawn_owed (l : Link) (c : Context) : (joinWithdrawn l c).owed = l.owed := by
  unfold joinWithdrawn; split <;> simp
@[simp] theorem joinWithdrawn_echo (l : Link) (c : Context) : (joinWithdrawn l c).echo = l.echo := by
  unfold joinWithdrawn; split <;> simp
@[simp] theorem joinWithdrawn_departed (l : Link) (c : Context) : (joinWithdrawn l c).departed = l.departed := by
  unfold joinWithdrawn; split <;> simp

theorem joinWithdrawn_load_le (l : Link) (c : Context) (j : Lane) : (joinWithdrawn l c).load j ≤ l.load j := by
  unfold joinWithdrawn; split
  · exact joinTakenBack_load_le ..
  · exact le_refl _

/-- Only a context in MP_GATHER withdraws a JOIN (R80). -/
theorem joinWithdrawn_settled (l : Link) {c : Context} (h : c.phase ≠ .gather) : joinWithdrawn l c = l := by
  simp [joinWithdrawn, h]

/-- A discard leaves every lane but CUE. -/
theorem joinWithdrawn_lane (l : Link) (c : Context) {j : Lane} (h : j ≠ .cue) :
    (joinWithdrawn l c).lane j = l.lane j := by
  unfold joinWithdrawn; split
  · exact joinTakenBack_lane l c h
  · rfl

/-! ## The STATE lane and the echo -/

/-- A placement leaves one STATE frame waiting (R168). -/
theorem Link.placeState_stateLane (l : Link) (r : StateReport) : (l.placeState r).stateLane.length = 1 := rfl

@[simp] theorem Link.placeState_onLine (l : Link) (r : StateReport) : (l.placeState r).onLine = l.onLine := rfl
@[simp] theorem Link.placeState_echo (l : Link) (r : StateReport) : (l.placeState r).echo = l.echo := rfl
@[simp] theorem Link.placeState_departed (l : Link) (r : StateReport) : (l.placeState r).departed = l.departed := rfl

/-- A placement counts the unsent frame it replaces (R168). -/
theorem Link.placeState_owed (l : Link) (r : StateReport) :
    (l.placeState r).owed = if l.stateLane.isEmpty then l.owed else min (l.owed + 1) 9 := by
  simp [Link.placeState, owedMore]

theorem Link.placeState_lane (l : Link) (r : StateReport) {j : Lane} (h : j ≠ .state) :
    (l.placeState r).lane j = l.lane j := by cases j <;> first | rfl | exact absurd rfl h

@[simp] theorem Link.answer_lane (l : Link) (tag : Byte) (rc : ResultCode) (k : Lane) :
    (l.answer tag rc).lane k = l.lane k := by cases k <;> rfl
@[simp] theorem Link.answer_load (l : Link) (tag : Byte) (rc : ResultCode) (k : Lane) :
    (l.answer tag rc).load k = l.load k := by cases k <;> rfl
@[simp] theorem Link.answer_owed (l : Link) (tag : Byte) (rc : ResultCode) : (l.answer tag rc).owed = l.owed := rfl
@[simp] theorem Link.answer_onLine (l : Link) (tag : Byte) (rc : ResultCode) : (l.answer tag rc).onLine = l.onLine := rfl
@[simp] theorem Link.answer_echo (l : Link) (tag : Byte) (rc : ResultCode) :
    (l.answer tag rc).echo = some (tag, rc) := rfl

end Sys2Proof.Machine
end

