-- ==== Sys2Proof/Laws/Contexts.lean ====
section
/-! SUPPORT. What the operations on contexts leave alone, said once: an operation of the move engine touches the move
engine's state and frames of the transmit queue, and nothing else. Then what each shared one does. -/

namespace Sys2Proof.Machine

/-- `t` is `s` but for the move engine, and for frames handed or withdrawn. -/
structure State.MovesOnly (s t : State) : Prop where
  pending : t.pending = s.pending
  start : t.start = s.start
  peers : t.peers = s.peers
  blend : t.blend = s.blend
  limiter : t.limiter = s.limiter
  surge : t.surge = s.surge
  store : t.store = s.store
  axis : t.axis = s.axis
  drive : t.drive = s.drive
  owed : t.link.owed = s.link.owed
  echo : t.link.echo = s.link.echo
  departed : t.link.departed = s.link.departed

theorem State.MovesOnly.refl (s : State) : s.MovesOnly s := ⟨rfl, rfl, rfl, rfl, rfl, rfl, rfl, rfl, rfl, rfl, rfl, rfl⟩

theorem State.MovesOnly.trans {s t u : State} (h : s.MovesOnly t) (g : t.MovesOnly u) : s.MovesOnly u :=
  ⟨g.pending.trans h.pending, g.start.trans h.start, g.peers.trans h.peers, g.blend.trans h.blend,
   g.limiter.trans h.limiter, g.surge.trans h.surge, g.store.trans h.store, g.axis.trans h.axis,
   g.drive.trans h.drive, g.owed.trans h.owed, g.echo.trans h.echo, g.departed.trans h.departed⟩

/-- A change of the move engine's state alone. -/
theorem State.MovesOnly.ofMoves (s : State) (m : Moves) : s.MovesOnly { s with moves := m } :=
  ⟨rfl, rfl, rfl, rfl, rfl, rfl, rfl, rfl, rfl, rfl, rfl, rfl⟩

theorem State.putContext_only (s : State) (p : Place) (c : Option Context) : s.MovesOnly (s.putContext p c) :=
  .ofMoves s _

theorem State.mapActive_only (s : State) (f : Context → Context) : s.MovesOnly (s.mapActive f) := .ofMoves s _

theorem State.setAbandon_only (s : State) (a : AbandonReason) : s.MovesOnly (s.setAbandon a) := .ofMoves s _

theorem State.giveHandOver_only (s : State) (vp : Int) : s.MovesOnly (s.giveHandOver vp) := .ofMoves s _

theorem State.hand_only (s : State) (k : Lane) (q : Queued) : s.MovesOnly (s.hand k q) :=
  ⟨rfl, rfl, rfl, rfl, rfl, rfl, rfl, rfl, rfl, by simp, by simp, by simp⟩

theorem State.handHold_only (s : State) (id : Byte) : s.MovesOnly (s.handHold id) := s.hand_only _ _

theorem State.handCancel_only (s : State) (id : Byte) : s.MovesOnly (s.handCancel id) := s.hand_only _ _

/-! ## Discards -/

theorem State.discard_empty {s : State} {p : Place} (h : s.moves.at p = none) : s.discard p = s := by
  simp [State.discard, h]

/-- A discard empties the place, and withdraws a JOIN that still waits (R80). -/
theorem State.discard_held {s : State} {p : Place} {c : Context} (h : s.moves.at p = some c) :
    s.discard p = { s with moves := s.moves.put p none, link := joinWithdrawn s.link c } := by
  simp [State.discard, h]

theorem State.discard_only (s : State) (p : Place) : s.MovesOnly (s.discard p) := by
  unfold State.discard; split
  · exact .refl s
  · exact ⟨rfl, rfl, rfl, rfl, rfl, rfl, rfl, rfl, rfl, by simp, by simp, by simp⟩

theorem State.lapse_only (s : State) : s.MovesOnly s.lapse := s.discard_only _

/-- The moves after a discard. -/
@[simp] theorem State.discard_moves (s : State) (p : Place) : (s.discard p).moves = s.moves.put p none := by
  unfold State.discard; split
  · rename_i h
    cases p <;> simp [Moves.at] at h <;> (simp only [Moves.put]; rw [← h])
  · rfl

/-- A discard adds no frame to any lane. -/
theorem State.discard_load_le (s : State) (p : Place) (k : Lane) : (s.discard p).link.load k ≤ s.link.load k := by
  unfold State.discard; split
  · exact le_refl _
  · exact joinWithdrawn_load_le ..

theorem State.lapseIfStranded_only (s : State) : s.MovesOnly s.lapseIfStranded := by
  unfold State.lapseIfStranded; split
  · split
    · exact s.lapse_only
    · exact .refl s
  · exact .refl s

theorem State.abandonPending_only (s : State) (a : AbandonReason) : s.MovesOnly (s.abandonPending a) := by
  unfold State.abandonPending; split
  · exact (s.setAbandon_only a).trans (State.discard_only _ _)
  · exact .refl s

theorem State.abandonPending_empty {s : State} (h : s.moves.pending = none) (a : AbandonReason) :
    s.abandonPending a = s := by simp [State.abandonPending, h]

theorem State.abandonActive_only (s : State) (a : AbandonReason) : s.MovesOnly (s.abandonActive a) := by
  unfold State.abandonActive; split
  · exact .refl s
  · split
    · exact .refl s
    · split
      · exact ((s.setAbandon_only a).trans (State.putContext_only _ _ _)).trans (State.abandonPending_only _ _)
      · exact ((s.setAbandon_only a).trans (State.discard_only _ _)).trans (State.abandonPending_only _ _)

/-- A lone ACTIVE context that has not fired is discarded with the reason (R86). -/
theorem State.abandonActive_unfired {s : State} {c : Context} (ha : s.moves.active = some c)
    (hp : s.moves.pending = none) (hf : c.phase.fired = false) (a : AbandonReason) :
    s.abandonActive a = { s with
      moves := { s.moves with active := none, lastAbandon := some a }, link := joinWithdrawn s.link c } := by
  have hr : c.phase ≠ .releasing := by rintro h; simp [h, Phase.fired] at hf
  have hd : (s.setAbandon a).discard .active = { s with
      moves := { s.moves with active := none, lastAbandon := some a }, link := joinWithdrawn s.link c } :=
    State.discard_held (p := .active) (c := c) ha
  simp only [State.abandonActive, ha, hr, hf, if_false, Bool.false_eq_true, hd]
  refine State.abandonPending_empty ?_ a
  exact hp

theorem State.supersede_only (s : State) : s.MovesOnly s.supersede := by
  unfold State.supersede; split
  · exact .refl s
  · exact ⟨rfl, rfl, rfl, rfl, rfl, rfl, rfl, rfl, rfl, by simp, by simp, by simp⟩

/-- A supersede empties the ACTIVE place with AB_SUPERSEDED, and takes the own JOIN back (R75). -/
theorem State.supersede_held {s : State} {c : Context} (h : s.moves.active = some c) :
    s.supersede = { s with
      moves := { s.moves with active := none, lastAbandon := some .superseded }, link := joinTakenBack s.link c } := by
  simp [State.supersede, h]

theorem State.abandon_only (s : State) (p : Place) (a : AbandonReason) : s.MovesOnly (s.abandon p a) := by
  cases p
  · exact s.abandonActive_only a
  · exact s.abandonPending_only a

/-- The one case of a halt's discard with contexts: both places empty (R88). -/
theorem State.haltContexts_only (s : State) : s.MovesOnly s.haltContexts := by
  unfold State.haltContexts; split
  · exact .refl s
  · exact ((s.setAbandon_only _).trans (State.discard_only _ _)).trans (State.discard_only _ _)

/-- After a halt's discard no context exists, and AB_HALTED is set exactly where one did (R88). -/
theorem State.haltContexts_moves (s : State) :
    s.haltContexts.moves = { s.moves with
      active := none, pending := none
      lastAbandon := if s.moves.none? = true then s.moves.lastAbandon else some .halted } := by
  unfold State.haltContexts
  by_cases h : s.moves.none? = true
  · rw [if_pos h, if_pos h]
    simp only [Moves.none?, Bool.and_eq_true, Option.isNone_iff_eq_none] at h
    obtain ⟨h1, h2⟩ := h
    cases hm : s.moves
    simp_all
  · rw [if_neg h, if_neg h]
    simp only [State.discard_moves, State.setAbandon_moves, Moves.put]

@[simp] theorem State.haltContexts_none (s : State) : s.haltContexts.moves.none? = true := by
  rw [State.haltContexts_moves]; rfl

theorem State.haltContexts_idle {s : State} (h : s.moves.none? = true) : s.haltContexts = s := by
  simp [State.haltContexts, h]

theorem State.haltContexts_load_le (s : State) (k : Lane) : s.haltContexts.link.load k ≤ s.link.load k := by
  unfold State.haltContexts; split
  · exact le_refl _
  · exact le_trans (State.discard_load_le _ _ _) (State.discard_load_le _ _ _)

/-! ## Notices and countdowns -/

theorem State.gatherExpiry_only (s : State) (p : Place) (c : Context) : s.MovesOnly (s.gatherExpiry p c) := by
  unfold State.gatherExpiry; split
  · cases p
    · exact s.putContext_only _ _
    · dsimp only
      split
      · exact s.putContext_only _ _
      · exact (s.putContext_only _ _).trans (State.abandonPending_only _ _)
  · split
    · exact (s.abandon_only _ _).trans (State.handCancel_only _ _)
    all_goals exact s.abandon_only _ _

theorem State.countPlace_only (s : State) (p : Place) : s.MovesOnly (s.countPlace p) := by
  unfold State.countPlace; split
  · exact .refl s
  · split
    · split
      · exact s.gatherExpiry_only _ _
      · exact s.putContext_only _ _
    · split
      · exact s.abandon_only _ _
      · exact s.putContext_only _ _
    · split
      · exact s.putContext_only _ _
      · cases p <;> exact s.putContext_only _ _
    all_goals exact .refl s

theorem State.countdowns_only (s : State) : s.MovesOnly s.countdowns :=
  (s.countPlace_only _).trans (State.countPlace_only _ _)

theorem State.stalePosted_only (s : State) (p : Place) (n : Station) : s.MovesOnly (s.stalePosted p n) := by
  unfold State.stalePosted; split
  · exact .refl s
  · split
    · cases p
      · exact (s.putContext_only _ _).trans (State.handHold_only _ _)
      · exact (s.putContext_only _ _).trans (State.lapseIfStranded_only _)
    · exact .refl s

theorem State.staleFired_only (s : State) (n : Station) : s.MovesOnly (s.staleFired n) := by
  unfold State.staleFired; split
  · exact .refl s
  · split
    · exact (s.putContext_only _ _).trans (State.handHold_only _ _)
    · exact .refl s

theorem State.staleNotice_only (s : State) (n : Station) : s.MovesOnly (s.staleNotice n) :=
  ((s.staleFired_only n).trans (State.stalePosted_only _ _ _)).trans (State.stalePosted_only _ _ _)

/-- A stale notice finds nothing to do in a node with no context. -/
theorem State.staleNotice_idle {s : State} (h : s.moves.none? = true) (n : Station) : s.staleNotice n = s := by
  simp only [Moves.none?, Bool.and_eq_true, Option.isNone_iff_eq_none] at h
  simp [State.staleNotice, State.staleFired, State.stalePosted, Moves.at, h.1, h.2]

theorem State.setCheck_only (s : State) (p : Place) (n : Station) : s.MovesOnly (s.setCheck p n) := by
  unfold State.setCheck; split
  · split
    · exact (s.abandon_only _ _).trans (State.handCancel_only _ _)
    · exact .refl s
  · exact .refl s

theorem State.updateNotice_only (s : State) (n : Station) : s.MovesOnly (s.updateNotice n) :=
  (s.setCheck_only _ n).trans (State.setCheck_only _ _ n)

/-- An update notice finds nothing to do in a node with no context. -/
theorem State.updateNotice_idle {s : State} (h : s.moves.none? = true) (n : Station) : s.updateNotice n = s := by
  simp only [Moves.none?, Bool.and_eq_true, Option.isNone_iff_eq_none] at h
  simp [State.updateNotice, State.setCheck, Moves.at, h.1, h.2]

/-! ## The playback step -/

theorem State.splicePart_only (s : State) : s.MovesOnly s.splicePart := by
  unfold State.splicePart; split
  · split
    · exact .ofMoves s _
    · exact .refl s
  · exact .refl s

theorem State.levelPart_only (s : State) : s.MovesOnly s.levelPart := by
  unfold State.levelPart; split
  · exact .refl s
  · dsimp only; split
    · exact ((s.putContext_only _ _).trans (State.abandonActive_only _ _)).trans (State.handCancel_only _ _)
    · exact s.putContext_only _ _

theorem State.advancePart_only (s : State) : s.MovesOnly s.advancePart.1 := by
  unfold State.advancePart; split
  · exact .refl s
  · split
    · exact (s.putContext_only _ _).trans (State.lapseIfStranded_only _)
    · exact .refl s

theorem State.weightAndRelease_only (s : State) (b : Bool) : s.MovesOnly (s.weightAndRelease b) := by
  unfold State.weightAndRelease; split
  · exact .refl s
  · dsimp only
    generalize Context.weightPart _ = d
    split
    · exact (s.putContext_only _ _).trans (State.discard_only _ _)
    · exact s.putContext_only _ _

theorem State.playbackStep_only (s : State) : s.MovesOnly s.playbackStep := by
  unfold State.playbackStep; split
  · exact ((((((s.splicePart_only).trans (State.mapActive_only _ _)).trans (State.mapActive_only _ _)).trans
      (State.levelPart_only _)).trans (State.advancePart_only _)).trans
      (State.weightAndRelease_only _ _)).trans (State.giveHandOver_only _ _)
  · exact s.giveHandOver_only _

/-- The move engine's reaction to an expiry touches its own state and the CUE lane. -/
theorem State.moveReaction_only (s : State) : s.MovesOnly s.moveReaction :=
  s.countdowns_only.trans (State.playbackStep_only _)

end Sys2Proof.Machine
end

