-- ==== Sys2Proof/Laws/Axis.lean ====
section
/-! SUPPORT. What a transition of the axis state machine does, said once (8.1, R24, R65, R88), and through it the halts
(8.4) and the fault causes (8.5). -/

namespace Sys2Proof.Machine

/-- What no transition touches: the queue of commands, the start, peers, blend, store and drive blocks, the surge window,
the owed count and the echo. -/
structure State.AxisOnly (s t : State) : Prop where
  pending : t.pending = s.pending
  start : t.start = s.start
  peers : t.peers = s.peers
  blend : t.blend = s.blend
  store : t.store = s.store
  drive : t.drive = s.drive
  window : t.surge.window = s.surge.window
  owed : t.link.owed = s.link.owed
  echo : t.link.echo = s.link.echo
  departed : t.link.departed = s.link.departed

theorem State.AxisOnly.refl (s : State) : s.AxisOnly s := ⟨rfl, rfl, rfl, rfl, rfl, rfl, rfl, rfl, rfl, rfl⟩

theorem State.AxisOnly.trans {s t u : State} (h : s.AxisOnly t) (g : t.AxisOnly u) : s.AxisOnly u :=
  ⟨g.pending.trans h.pending, g.start.trans h.start, g.peers.trans h.peers, g.blend.trans h.blend,
   g.store.trans h.store, g.drive.trans h.drive, g.window.trans h.window, g.owed.trans h.owed, g.echo.trans h.echo,
   g.departed.trans h.departed⟩

theorem State.MovesOnly.axisOnly {s t : State} (h : s.MovesOnly t) : s.AxisOnly t :=
  ⟨h.pending, h.start, h.peers, h.blend, h.store, h.drive, by rw [h.surge], h.owed, h.echo, h.departed⟩

/-- A change of the axis state machine's own state alone. -/
theorem State.AxisOnly.ofAxis (s : State) (a : Axis) : s.AxisOnly { s with axis := a } :=
  ⟨rfl, rfl, rfl, rfl, rfl, rfl, rfl, rfl, rfl, rfl⟩

/-! ## The surge unit at a transition -/

theorem State.surgeAt_only (s : State) (old new : NodeState) : s.AxisOnly (s.surgeAt old new) := by
  unfold State.surgeAt
  split
  · exact ⟨rfl, rfl, rfl, rfl, rfl, rfl, rfl, by simp, by simp, by simp⟩
  · split
    · exact ⟨rfl, rfl, rfl, rfl, rfl, rfl, rfl, rfl, rfl, rfl⟩
    · split
      · exact ⟨rfl, rfl, rfl, rfl, rfl, rfl, rfl, rfl, rfl, rfl⟩
      · exact .refl s

@[simp] theorem State.surgeAt_moves (s : State) (old new : NodeState) : (s.surgeAt old new).moves = s.moves := by
  unfold State.surgeAt; split
  · rfl
  · split
    · rfl
    · split <;> rfl

@[simp] theorem State.surgeAt_axis (s : State) (old new : NodeState) : (s.surgeAt old new).axis = s.axis := by
  unfold State.surgeAt; split
  · rfl
  · split
    · rfl
    · split <;> rfl

@[simp] theorem State.surgeAt_limiter (s : State) (old new : NodeState) : (s.surgeAt old new).limiter = s.limiter := by
  unfold State.surgeAt; split
  · rfl
  · split
    · rfl
    · split <;> rfl

/-- The surge unit's state after a transition (R65). -/
theorem State.surgeAt_surge (s : State) (old new : NodeState) :
    (s.surgeAt old new).surge =
      if old = .active ∧ new ≠ .active ∧ (s.surge.status = .queued ∨ s.surge.status = .sent) then
        { s.surge with status := .none }
      else if new ≠ .active ∧ new ≠ .holdPark ∧ s.surge.status = .granted then
        { s.surge with status := .none, countdown := 0 }
      else s.surge := by
  unfold State.surgeAt
  by_cases h1 : old = .active ∧ new ≠ .active ∧ s.surge.status = .queued
  · rw [if_pos h1, if_pos ⟨h1.1, h1.2.1, .inl h1.2.2⟩]
  · rw [if_neg h1]
    by_cases h2 : old = .active ∧ new ≠ .active ∧ s.surge.status = .sent
    · rw [if_pos h2, if_pos ⟨h2.1, h2.2.1, .inr h2.2.2⟩]
    · have h3 : ¬(old = .active ∧ new ≠ .active ∧ (s.surge.status = .queued ∨ s.surge.status = .sent)) := fun x =>
        x.2.2.elim (fun c => h1 ⟨x.1, x.2.1, c⟩) (fun c => h2 ⟨x.1, x.2.1, c⟩)
      rw [if_neg h2, if_neg h3]
      split <;> rfl

theorem State.surgeAt_load_le (s : State) (old new : NodeState) (k : Lane) :
    (s.surgeAt old new).link.load k ≤ s.link.load k := by
  unfold State.surgeAt; split
  · exact Link.withdraw_load_le ..
  · split
    · exact le_refl _
    · split <;> exact le_refl _

/-- A node outside NS_ACTIVE, or one that stays there, keeps a claim that waits. -/
theorem State.surgeAt_link {s : State} {old new : NodeState} (h : old ≠ .active ∨ new = .active) :
    (s.surgeAt old new).link = s.link := by
  unfold State.surgeAt
  rw [if_neg (by rintro ⟨a, b, -⟩; cases h <;> contradiction)]
  split
  · rfl
  · split <;> rfl

/-! ## Entering a state -/

/-- The contexts after a transition: none once NS_ACTIVE is left (R88). -/
theorem State.enter_moves (s : State) (new : NodeState) :
    (s.enter new).moves =
      if s.axis.nodeState = .active ∧ new ≠ .active then s.haltContexts.moves else s.moves := by
  simp only [State.enter, State.surgeAt_moves]
  split <;> rfl

@[simp] theorem State.enter_axis (s : State) (new : NodeState) : (s.enter new).axis = s.axis.entered new := by
  simp only [State.enter, State.surgeAt_axis]
  split
  · rw [s.haltContexts_only.axis]
  · rfl

@[simp] theorem State.enter_limiter (s : State) (new : NodeState) :
    (s.enter new).limiter = limiterAt s.limiter s.drive.actual new := by
  simp only [State.enter, State.surgeAt_limiter]
  rw [(State.surgeAt_only _ _ _).drive]
  split
  · rw [s.haltContexts_only.limiter, s.haltContexts_only.drive]
  · rfl

theorem State.enter_only (s : State) (new : NodeState) : s.AxisOnly (s.enter new) := by
  have h : s.AxisOnly (if s.axis.nodeState = .active ∧ new ≠ .active then s.haltContexts else s) := by
    split
    · exact s.haltContexts_only.axisOnly
    · exact .refl s
  have g := h.trans (State.surgeAt_only _ s.axis.nodeState new)
  exact ⟨g.pending, g.start, g.peers, g.blend, g.store, g.drive, g.window, g.owed, g.echo, g.departed⟩

/-- The surge unit after a transition is as R65 has it, whatever the contexts did. -/
theorem State.enter_surge (s : State) (new : NodeState) :
    (s.enter new).surge = (s.surgeAt s.axis.nodeState new).surge := by
  simp only [State.enter, State.surgeAt_surge]
  split
  · rw [s.haltContexts_only.surge]
  · rfl

theorem State.enter_load_le (s : State) (new : NodeState) (k : Lane) : (s.enter new).link.load k ≤ s.link.load k := by
  refine le_trans (State.surgeAt_load_le _ _ _ k) ?_
  split
  · exact s.haltContexts_load_le k
  · exact le_refl _

/-- From a node state other than NS_ACTIVE no context and no frame is touched. -/
theorem State.enter_link {s : State} (h : s.axis.nodeState ≠ .active) (new : NodeState) :
    (s.enter new).link = s.link := by
  have : ¬(s.axis.nodeState = .active ∧ new ≠ .active) := fun x => h x.1
  simp only [State.enter, this]
  rw [if_neg not_false]
  exact State.surgeAt_link (.inl h)

/-- From a node state other than NS_ACTIVE every context stands. -/
theorem State.enter_moves_standing {s : State} (h : s.axis.nodeState ≠ .active) (new : NodeState) :
    (s.enter new).moves = s.moves := by rw [State.enter_moves, if_neg (fun x => h x.1)]

/-- The setpoint stands at every transition but the one into NS_BRAKE_RELEASE (R42). -/
theorem State.enter_S {s : State} {new : NodeState} (h : new ≠ .brakeRelease) :
    (s.enter new).limiter.S = s.limiter.S := by simp [limiterAt, h]

/-! ## Stopping -/

theorem State.settleStop_only (s : State) : s.AxisOnly s.settleStop := by
  unfold State.settleStop; split
  · exact s.enter_only _
  · exact .refl s

theorem State.settleStop_load_le (s : State) (k : Lane) : s.settleStop.link.load k ≤ s.link.load k := by
  unfold State.settleStop; split
  · exact s.enter_load_le _ k
  · exact le_refl _

/-- The node state after the check for rest in NS_STOPPING (R40). -/
theorem State.settleStop_nodeState (s : State) :
    s.settleStop.axis.nodeState =
      if s.axis.nodeState = .stopping ∧ s.limiter.vc = 0 then .stopped else s.axis.nodeState := by
  unfold State.settleStop; split
  · simp [Axis.entered]
  · rfl

theorem State.stopMotion_only (s : State) : s.AxisOnly s.stopMotion := by
  unfold State.stopMotion; split
  case h_1 | h_2 | h_3 => exact (s.enter_only _).trans (State.settleStop_only _)
  all_goals exact .refl s

theorem State.stopMotion_load_le (s : State) (k : Lane) : s.stopMotion.link.load k ≤ s.link.load k := by
  unfold State.stopMotion; split
  case h_1 | h_2 | h_3 => exact le_trans (State.settleStop_load_le _ k) (s.enter_load_le _ k)
  all_goals exact le_refl _

/-- A node in motion, or that may move, stops: NS_STOPPED with v_c 0 and NS_STOPPING otherwise (R141, R144, R40). -/
theorem State.stopMotion_nodeState {s : State}
    (h : s.axis.nodeState = .active ∨ s.axis.nodeState = .holdPark) :
    s.stopMotion.axis.nodeState = if s.limiter.vc = 0 then .stopped else .stopping := by
  have hs : s.stopMotion = (s.enter .stopping).settleStop := by
    rcases h with h | h <;> simp [State.stopMotion, h]
  rw [hs, State.settleStop_nodeState]
  simp [Axis.entered, limiterAt, NodeState.still]

/-- A node that is at rest, or that stops already, stands where it is. -/
theorem State.stopMotion_rest {s : State} (h1 : s.axis.nodeState ≠ .active) (h2 : s.axis.nodeState ≠ .holdPark)
    (h3 : s.axis.nodeState ≠ .brakeRelease) : s.stopMotion = s := by
  unfold State.stopMotion; split <;> first | contradiction | rfl

/-- The fault cause and the halt latch stand at every transition. -/
@[simp] theorem State.settleStop_cause (s : State) : s.settleStop.axis.cause = s.axis.cause := by
  unfold State.settleStop; split <;> simp [Axis.entered]
@[simp] theorem State.settleStop_haltLatch (s : State) : s.settleStop.axis.haltLatch = s.axis.haltLatch := by
  unfold State.settleStop; split <;> simp [Axis.entered]
@[simp] theorem State.stopMotion_cause (s : State) : s.stopMotion.axis.cause = s.axis.cause := by
  unfold State.stopMotion; split <;> simp [Axis.entered]
@[simp] theorem State.stopMotion_haltLatch (s : State) : s.stopMotion.axis.haltLatch = s.axis.haltLatch := by
  unfold State.stopMotion; split <;> simp [Axis.entered]

/-! ## Halts and fault causes -/

theorem State.halt_only (s : State) : s.AxisOnly s.halt :=
  (s.haltContexts_only.axisOnly.trans (.ofAxis _ _)).trans (State.stopMotion_only _)

theorem State.halt_load_le (s : State) (k : Lane) : s.halt.link.load k ≤ s.link.load k :=
  le_trans (State.stopMotion_load_le _ k) (s.haltContexts_load_le k)

@[simp] theorem State.halt_haltLatch (s : State) : s.halt.axis.haltLatch = true := by simp [State.halt]

@[simp] theorem State.halt_cause (s : State) : s.halt.axis.cause = s.axis.cause := by
  simp [State.halt, s.haltContexts_only.axis]

theorem State.setCause_only (s : State) (c : FaultCause) : s.AxisOnly (s.setCause c) := .ofAxis s _

theorem State.faulting_only (s : State) (c : FaultCause) : s.AxisOnly (s.faulting c) := by
  unfold State.faulting; dsimp only; split
  · exact .refl s
  · exact (s.setCause_only _).trans (.ofAxis _ _)
  · exact s.setCause_only _
  all_goals exact (s.setCause_only _).trans (State.enter_only _ _)

theorem State.faulting_load_le (s : State) (c : FaultCause) (k : Lane) : (s.faulting c).link.load k ≤ s.link.load k := by
  unfold State.faulting; dsimp only; split
  case h_1 | h_2 | h_3 => exact le_refl _
  all_goals exact State.enter_load_le _ _ k

/-- A faulting cause outside NS_STARTING, NS_CONFIG_FAULT and NS_FAULTED is latched by R146 and faults the node
(R145). -/
theorem State.faulting_running {s : State} (c : FaultCause) (h1 : s.axis.nodeState ≠ .starting)
    (h2 : s.axis.nodeState ≠ .configFault) (h3 : s.axis.nodeState ≠ .faulted) :
    s.faulting c = (s.setCause (causeAfterFaulting s.axis.cause c s.link.owed)).enter .faulted := by
  unfold State.faulting; dsimp only; split <;> first | contradiction | rfl

theorem State.starved_only (s : State) : s.AxisOnly s.starved :=
  (s.setCause_only _).trans (State.stopMotion_only _)

theorem State.starved_load_le (s : State) (k : Lane) : s.starved.link.load k ≤ s.link.load k :=
  State.stopMotion_load_le _ k

/-- FC_LINK_STARVED stands after its report, whatever stood before (R146). -/
@[simp] theorem State.starved_cause (s : State) : s.starved.axis.cause = .linkStarved := by simp [State.starved]

theorem State.clash_only (s : State) : s.AxisOnly s.clash := by
  unfold State.clash; split
  · exact .refl s
  · refine State.AxisOnly.trans ?_ (State.stopMotion_only _)
    split
    · exact s.setCause_only _
    · exact .refl s

theorem State.clash_load_le (s : State) (k : Lane) : s.clash.link.load k ≤ s.link.load k := by
  unfold State.clash; split
  · exact le_refl _
  · refine le_trans (State.stopMotion_load_le _ k) ?_
    split <;> exact le_refl _

end Sys2Proof.Machine
end

