-- ==== Sys2Proof/Laws/Arrivals.lean ====
section
/-! SUPPORT. How a command reaches the node: the outcome of an event, of a frame's arrival, of a SERVICE frame, and of a
command's tests. -/

namespace Sys2Proof.Machine

@[simp] theorem whenAble_able (s t : State) : whenAble true s t = .next t := rfl
@[simp] theorem whenAble_unable (s t : State) : whenAble false s t = .next s := rfl

/-- A frame within its encoding reaches a node that runs (R162, R173). -/
theorem State.arrive_taken {s : State} {f : Frame} (hl : s.live = true) (hw : f.within = true) (rx : Rx)
    (act : Bool → State → State) : s.arrive rx f act = .next (act (s.isLoopback rx f) s.heard) := by
  simp only [State.arrive, hl, hw]
  rfl

/-- A frame with a field outside its encoding is discarded whole (R162). -/
theorem State.arrive_discarded {s : State} {f : Frame} (hw : f.within = false) (rx : Rx) (act : Bool → State → State) :
    s.arrive rx f act = .next s := by simp [State.arrive, hw]

/-- A node whose straps are unread, or whose reset line is held, receives nothing (R173, R180). -/
theorem State.arrive_dead {s : State} (hl : s.live = false) (rx : Rx) (f : Frame) (act : Bool → State → State) :
    s.arrive rx f act = .next s := by simp [State.arrive, hl]

/-- A SERVICE frame for this station is acted on (R164). -/
theorem State.service_taken {s : State} {h : SvcHead} (hl : s.live = true) (ht : h.target = s.start.station)
    (op : Operation) (act : State → State) : s.service h op act = .next (act s.heard) := by
  rw [State.service, State.arrive_taken hl rfl]
  simp [ht]

/-- A SERVICE frame for another station is not (R164). -/
theorem State.service_other {s : State} {h : SvcHead} (hl : s.live = true) (ht : h.target ≠ s.start.station)
    (op : Operation) (act : State → State) : s.service h op act = .next s.heard := by
  rw [State.service, State.arrive_taken hl rfl]
  simp [ht]

/-- A command with no test left acts and is answered RC_OK. -/
@[simp] theorem State.tested_none (s : State) (tag : Byte) (act : State → State) :
    s.tested tag [] act = (act s).answer tag .ok := rfl

/-- A test that passes leads to the next one. -/
@[simp] theorem State.tested_pass (s : State) (tag : Byte) (rc : ResultCode) (ts : List (Bool × ResultCode))
    (act : State → State) : s.tested tag ((true, rc) :: ts) act = s.tested tag ts act := rfl

/-- The first test that fails refuses the command with its code, and nothing else changes (R171). -/
@[simp] theorem State.tested_fail (s : State) (tag : Byte) (rc : ResultCode) (ts : List (Bool × ResultCode))
    (act : State → State) : s.tested tag ((false, rc) :: ts) act = s.answer tag rc := rfl

/-- What tests can lead to: a refusal with one of their codes, or the act with all of them passed. -/
theorem State.tested_cases (s : State) (tag : Byte) (ts : List (Bool × ResultCode)) (act : State → State) :
    (∃ t ∈ ts, t.1 = false ∧ s.tested tag ts act = s.answer tag t.2) ∨
      ((∀ t ∈ ts, t.1 = true) ∧ s.tested tag ts act = (act s).answer tag .ok) := by
  induction ts with
  | nil => exact .inr ⟨by simp, rfl⟩
  | cons t ts ih =>
    obtain ⟨b, rc⟩ := t
    cases b
    · exact .inl ⟨(false, rc), by simp, rfl, rfl⟩
    · rcases ih with ⟨t, ht, hf, he⟩ | ⟨ha, he⟩
      · exact .inl ⟨t, by simp [ht], hf, he⟩
      · refine .inr ⟨?_, he⟩
        intro t ht
        rcases List.mem_cons.mp ht with rfl | h
        · rfl
        · exact ha t h

/-- A slot byte of a slot number. -/
theorem slotOfByte_of_lt {b : Byte} {slot : Fin 48} (h : b.toNat = slot.val) : slotOfByte b = some slot := by
  have hb : b.toNat < 48 := by omega
  simp only [slotOfByte, hb, dite_true, Option.some.injEq]
  exact Fin.ext h

@[simp] theorem slotOfByte_ofNat (slot : Fin 48) : slotOfByte (BitVec.ofNat 8 slot.val) = some slot :=
  slotOfByte_of_lt (by simpa using Nat.mod_eq_of_lt (a := slot.val) (b := 256) (by omega))

/-- A slot byte above 47 (R73). -/
theorem slotOfByte_above {b : Byte} (h : 48 ≤ b.toNat) : slotOfByte b = none := by
  simp [slotOfByte, Nat.not_lt.mpr h]

/-- An untagged cue leaves the echo (R72, R171). -/
@[simp] theorem State.answerCue_none (s : State) (rc : ResultCode) : s.answerCue none rc = s := rfl
@[simp] theorem State.answerCue_some (s : State) (t : Byte) (rc : ResultCode) :
    s.answerCue (some t) rc = s.answer t rc := rfl

/-- The context that a cue with a move id of 1..255 concerns (R72): the ACTIVE one. -/
theorem State.cueAt_active {s : State} {c : Context} (ha : s.moves.active = some c) (hm : c.moveId ≠ 0)
    (act : Place → Context → State) : s.cueAt c.moveId act = act .active c := by
  rw [State.cueAt, if_neg hm]
  simp [Moves.find?, ha, Moves.at]

/-- And the PENDING one. -/
theorem State.cueAt_pending {s : State} {a p : Context} (ha : s.moves.active = some a) (hp : s.moves.pending = some p)
    (hm : p.moveId ≠ 0) (hne : a.moveId ≠ p.moveId) (act : Place → Context → State) :
    s.cueAt p.moveId act = act .pending p := by
  rw [State.cueAt, if_neg hm]
  simp [Moves.find?, ha, hp, Moves.at, hne]

/-- A cue that no context holds concerns no one (R72). -/
theorem State.cueAt_stranger {s : State} {id : Byte} (ha : ∀ c, s.moves.active = some c → c.moveId ≠ id)
    (hp : ∀ c, s.moves.pending = some c → c.moveId ≠ id) (act : Place → Context → State) : s.cueAt id act = s := by
  have h : s.moves.find? id = none := by
    unfold Moves.find?
    cases h1 : s.moves.active <;> cases h2 : s.moves.pending <;> simp_all
  simp [State.cueAt, h]

/-- Every participant FRESH (R82, R101). -/
theorem State.allFresh_iff (s : State) (m : StationSet) :
    s.allFresh m = true ↔ ∀ n, m.has n = true → ∃ e, s.entry n = some e ∧ e.age ≤ 8 := by
  simp only [State.allFresh, List.all_eq_true]
  have hm : ∀ n, n ∈ allStations := fun n => List.mem_finRange n
  constructor
  · intro h n hn
    have := h n (hm n)
    simp only [hn, Bool.not_true, Bool.false_or, State.freshEntry] at this
    cases he : s.entry n with
    | none => simp [he] at this
    | some e =>
      refine ⟨e, rfl, ?_⟩
      by_contra hc
      have : ¬e.age < 9 := by omega
      simp_all [freshAge]
  · intro h n _
    cases hh : m.has n with
    | false => rfl
    | true =>
      obtain ⟨e, he, ha⟩ := h n hh
      have : e.age < 9 := by omega
      simp [State.freshEntry, he, freshAge, this]

/-- A participant that is not FRESH (R82, R101). -/
theorem State.allFresh_lost {s : State} {m : StationSet} {n : Station} (hn : m.has n = true)
    (h : ∀ e, s.entry n = some e → 9 ≤ e.age) : s.allFresh m = false := by
  rw [Bool.eq_false_iff]
  intro hc
  obtain ⟨e, he, ha⟩ := (s.allFresh_iff m).mp hc n hn
  have := h e he
  omega

end Sys2Proof.Machine
end

