-- ==== Sys2Proof/Laws/Expiry.lean ====
section
/-! SUPPORT. The reactions of the blocks to a period expiry: what each touches, and that the order of an operand names
each block once. -/

namespace Sys2Proof.Machine

/-! ## Peer table -/

theorem State.agePeer_entry (s : State) (n m : Station) :
    (s.agePeer n).entry m = if m = n then (s.entry m).map (fun e => { e with age := older e.age }) else s.entry m := by
  unfold State.agePeer
  cases he : s.entry n with
  | none =>
    dsimp only
    split
    · rename_i h; subst h; rw [he]; rfl
    · rfl
  | some e =>
    dsimp only
    have key : ∀ t : State, t.peers = { s.peers with
        entries := s.peers.entries.set n.val (some { e with age := older e.age }) } →
        t.entry m = if m = n then (s.entry m).map (fun e => { e with age := older e.age }) else s.entry m := by
      intro t ht
      unfold State.entry at he ⊢
      rw [ht]
      dsimp only
      by_cases h : m = n
      · subst h; simp [he]
      · have : n.val ≠ m.val := fun x => h (Fin.ext x.symm)
        simp [h, Vector.getElem_set_ne, this]
    split
    · exact key _ (State.staleNotice_only _ n).peers
    · exact key _ rfl

theorem State.agePeer_stick (s : State) (n : Station) : (s.agePeer n).peers.stick = s.peers.stick := by
  unfold State.agePeer; split
  · rfl
  · dsimp only; split
    · rw [(State.staleNotice_only _ n).peers]
    · rfl

/-- What the peer table's reaction leaves alone. -/
structure State.PeersOnly (s t : State) : Prop where
  pending : t.pending = s.pending
  start : t.start = s.start
  blend : t.blend = s.blend
  limiter : t.limiter = s.limiter
  surge : t.surge = s.surge
  store : t.store = s.store
  axis : t.axis = s.axis
  drive : t.drive = s.drive
  owed : t.link.owed = s.link.owed
  echo : t.link.echo = s.link.echo

theorem State.PeersOnly.refl (s : State) : s.PeersOnly s := ⟨rfl, rfl, rfl, rfl, rfl, rfl, rfl, rfl, rfl, rfl⟩

theorem State.PeersOnly.trans {s t u : State} (h : s.PeersOnly t) (g : t.PeersOnly u) : s.PeersOnly u :=
  ⟨g.pending.trans h.pending, g.start.trans h.start, g.blend.trans h.blend, g.limiter.trans h.limiter,
   g.surge.trans h.surge, g.store.trans h.store, g.axis.trans h.axis, g.drive.trans h.drive, g.owed.trans h.owed,
   g.echo.trans h.echo⟩

theorem State.MovesOnly.peersOnly {s t : State} (h : s.MovesOnly t) : s.PeersOnly t :=
  ⟨h.pending, h.start, h.blend, h.limiter, h.surge, h.store, h.axis, h.drive, h.owed, h.echo⟩

theorem State.writeEntry_only (s : State) (n : Station) (e : PeerEntry) : s.PeersOnly (s.writeEntry n e) :=
  ⟨rfl, rfl, rfl, rfl, rfl, rfl, rfl, rfl, rfl, rfl⟩

theorem State.ageStick_only (s : State) : s.PeersOnly s.ageStick :=
  ⟨rfl, rfl, rfl, rfl, rfl, rfl, rfl, rfl, rfl, rfl⟩

theorem State.agePeer_only (s : State) (n : Station) : s.PeersOnly (s.agePeer n) := by
  unfold State.agePeer; split
  · exact .refl s
  · dsimp only; split
    · exact (s.writeEntry_only n _).trans (State.staleNotice_only (s.writeEntry n _) n).peersOnly
    · exact s.writeEntry_only n _

theorem State.agePeers_only (s : State) (ns : List Station) : s.PeersOnly (ns.foldl State.agePeer s) := by
  induction ns generalizing s with
  | nil => exact .refl s
  | cons n ns ih => exact (s.agePeer_only n).trans (ih _)

theorem State.agePeers_entry (s : State) (ns : List Station) (hn : ns.Nodup) (m : Station) :
    (ns.foldl State.agePeer s).entry m =
      if m ∈ ns then (s.entry m).map (fun e => { e with age := older e.age }) else s.entry m := by
  induction ns generalizing s with
  | nil => simp
  | cons n ns ih =>
    obtain ⟨h1, h2⟩ := List.nodup_cons.mp hn
    rw [List.foldl_cons, ih _ h2, State.agePeer_entry]
    by_cases hm : m = n
    · subst hm; simp [h1]
    · simp [hm]

theorem State.agePeers_stick (s : State) (ns : List Station) :
    (ns.foldl State.agePeer s).peers.stick = s.peers.stick := by
  induction ns generalizing s with
  | nil => rfl
  | cons n ns ih => rw [List.foldl_cons, ih, State.agePeer_stick]

theorem State.ageStick_entry (s : State) (m : Station) : s.ageStick.entry m = s.entry m := rfl

/-- Every entry ages (R47). -/
theorem State.peerReaction_entry (s : State) (m : Station) :
    s.peerReaction.entry m = (s.entry m).map (fun e => { e with age := older e.age }) := by
  have h := s.agePeers_entry allStations (List.nodup_finRange 16) m
  have hm : m ∈ allStations := List.mem_finRange m
  rw [if_pos hm] at h
  rw [State.peerReaction, State.ageStick_entry]
  exact h

/-- The stick record ages (R54). -/
theorem State.peerReaction_stick (s : State) :
    s.peerReaction.peers.stick = s.peers.stick.map (fun r => { r with age := older r.age }) := by
  simp [State.peerReaction, State.agePeers_stick]

theorem State.peerReaction_only (s : State) : s.PeersOnly s.peerReaction :=
  (s.agePeers_only allStations).trans (State.ageStick_only _)

/-! ## Surge unit, axis state machine, lines, store -/

theorem State.brakeWait_only (s : State) : s.AxisOnly s.brakeWait := by
  unfold State.brakeWait; split
  · exact s.faulting_only _
  · exact .ofAxis s _

theorem State.axisReaction_only (s : State) : s.AxisOnly s.axisReaction := by
  unfold State.axisReaction; split
  · unfold State.releaseStep; split
    · split
      · exact s.enter_only _
      · exact .ofAxis s _
    · split
      · exact .ofAxis s _
      · exact s.brakeWait_only
  · unfold State.engageStep; split
    · exact s.brakeWait_only
    · exact s.enter_only _
  · split
    · exact s.enter_only _
    · exact .refl s
  all_goals exact .refl s

/-- The line sampling and its line changes touch neither the peers, the blend, the store nor the start. -/
theorem State.lineReaction_frame (s : State) (levels : Lines Bool) :
    (s.lineReaction levels).pending = s.pending ∧ (s.lineReaction levels).start = s.start ∧
    (s.lineReaction levels).peers = s.peers ∧ (s.lineReaction levels).blend = s.blend ∧
    (s.lineReaction levels).store = s.store ∧ (s.lineReaction levels).surge.window = s.surge.window ∧
    (s.lineReaction levels).link.owed = s.link.owed ∧ (s.lineReaction levels).link.echo = s.link.echo ∧
    (s.lineReaction levels).drive = { s.drive with lines := s.sampledLines levels } := by
  let s1 : State := { s with drive := { s.drive with lines := s.sampledLines levels } }
  have hp : s1.AxisOnly s1.estopPressed :=
    (s1.hand_only .halt (plain (.halt .estopLine))).axisOnly.trans (State.halt_only _)
  have key : s1.AxisOnly (s.lineReaction levels) := by
    unfold State.lineReaction; dsimp only
    split
    · refine State.AxisOnly.trans ?_ (State.faulting_only _ _)
      split
      · exact hp
      · exact .refl s1
    · split
      · exact hp
      · exact .refl s1
  exact ⟨key.pending, key.start, key.peers, key.blend, key.store, key.window, key.owed, key.echo, key.drive⟩

/-- The store's reaction touches the store and the echo. -/
theorem State.storeReaction_frame (s : State) (b : Bool) :
    (s.storeReaction b).pending = s.pending ∧ (s.storeReaction b).start = s.start ∧
    (s.storeReaction b).peers = s.peers ∧ (s.storeReaction b).blend = s.blend ∧
    (s.storeReaction b).limiter = s.limiter ∧ (s.storeReaction b).surge = s.surge ∧
    (s.storeReaction b).moves = s.moves ∧ (s.storeReaction b).axis = s.axis ∧
    (s.storeReaction b).drive = s.drive ∧ (s.storeReaction b).link.owed = s.link.owed ∧
    (∀ k, (s.storeReaction b).link.load k = s.link.load k) := by
  unfold State.storeReaction; split
  · simp
  · split <;> simp

/-! ## The setpoint operation -/

/-- The operation of a state touches the limiter, the blend, and a surge claim with its frame. -/
theorem State.operate_frame (s : State) :
    s.operate.pending = s.pending ∧ s.operate.start = s.start ∧ s.operate.peers = s.peers ∧
    s.operate.moves = s.moves ∧ s.operate.store = s.store ∧ s.operate.axis = s.axis ∧ s.operate.drive = s.drive ∧
    s.operate.surge.window = s.surge.window ∧ s.operate.link.owed = s.link.owed ∧
    s.operate.link.stateLane = s.link.stateLane ∧ s.operate.link.echo = s.link.echo := by
  have hc : ∀ v w, (s.claimAsked v w).pending = s.pending ∧ (s.claimAsked v w).start = s.start ∧
      (s.claimAsked v w).peers = s.peers ∧ (s.claimAsked v w).moves = s.moves ∧
      (s.claimAsked v w).store = s.store ∧ (s.claimAsked v w).axis = s.axis ∧ (s.claimAsked v w).drive = s.drive ∧
      (s.claimAsked v w).surge.window = s.surge.window ∧ (s.claimAsked v w).link.owed = s.link.owed ∧
      (s.claimAsked v w).link.stateLane = s.link.stateLane ∧ (s.claimAsked v w).link.echo = s.link.echo := by
    intro v w
    unfold State.claimAsked; split
    · unfold State.claimTaken; split
      · have := Link.hand_lane_ne s.link (j := .state) (k := .surge) (plain .surge) (by decide)
        simpa [Link.lane] using this
      · simp
    · simp
  unfold State.operate; split
  case h_1 | h_2 => exact hc _ _
  all_goals simp

/-- What the reports of a hand-over leave alone. -/
theorem State.reportsTaken_only (s before : State) : s.AxisOnly (s.reportsTaken before) := by
  unfold State.reportsTaken; dsimp only
  have h1 : ∀ (t : State) (b : Bool) (c : FaultCause), t.AxisOnly (if b = true then t.faulting c else t) := by
    intro t b c; split
    · exact t.faulting_only c
    · exact .refl t
  have h12 := (h1 s (becameThree before.drive.silent s.drive.silent) .driveSilent).trans
    (h1 _ (becameThree before.drive.following s.drive.following) .following)
  split
  · exact h12.trans (State.starved_only _)
  · exact h12

theorem State.handOverAll_only (s : State) (n : NodeState) : (s.handedOver n).AxisOnly (s.handOverAll n) :=
  (State.reportsTaken_only _ _).trans (State.settleStop_only _)

/-- Every setpoint operation hands over one new exchange (R151). -/
theorem State.setpointOperation_exchange (s : State) :
    s.setpointOperation.drive.exchange = some (s.operate.newExchange s.axis.nodeState) := by
  rw [State.setpointOperation, (State.handOverAll_only _ _).drive]
  rfl

/-- And leaves the commands, the start, the peers and the store. -/
theorem State.setpointOperation_frame (s : State) :
    s.setpointOperation.pending = s.pending ∧ s.setpointOperation.start = s.start ∧
    s.setpointOperation.peers = s.peers ∧ s.setpointOperation.store = s.store ∧
    s.setpointOperation.surge.window = s.surge.window ∧ s.setpointOperation.blend = s.operate.blend ∧
    s.setpointOperation.link.echo = s.link.echo := by
  have h := State.handOverAll_only s.operate s.axis.nodeState
  have g := s.operate_frame
  unfold State.setpointOperation
  refine ⟨h.pending.trans g.1, h.start.trans g.2.1, h.peers.trans g.2.2.1, ?_, ?_, h.blend, ?_⟩
  · exact h.store.trans g.2.2.2.2.1
  · exact h.window.trans g.2.2.2.2.2.2.2.1
  · exact h.echo.trans g.2.2.2.2.2.2.2.2.2.2

/-! ## The whole expiry -/

/-- What every block's reaction keeps, the expiry keeps, in whatever order. -/
theorem State.expiry_keeps {P : State → Prop} (input : ExpiryInput)
    (h : ∀ t b, P t → P (t.react input b)) {s : State} (hs : P s) : P (s.expiry input) := by
  unfold State.expiry
  generalize schedule input.order = bs
  induction bs generalizing s with
  | nil => exact hs
  | cons b bs ih => exact ih (h s b hs)

theorem firstMentions_nodup (bs seen : List Block) (h : seen.Nodup) : (firstMentions bs seen).Nodup := by
  induction bs generalizing seen with
  | nil => exact h
  | cons b bs ih =>
    apply ih
    split
    · exact h
    · rename_i hb
      refine List.nodup_append.mpr ⟨h, by simp, ?_⟩
      intro x hx y hy
      rw [List.mem_singleton] at hy
      subst hy
      rintro rfl
      exact hb (by simpa using hx)

theorem mem_firstMentions (bs seen : List Block) (b : Block) : b ∈ firstMentions bs seen ↔ b ∈ seen ∨ b ∈ bs := by
  induction bs generalizing seen with
  | nil => simp [firstMentions]
  | cons c bs ih =>
    rw [firstMentions, ih]
    by_cases hc : seen.contains c = true
    · rw [if_pos hc]
      have : c ∈ seen := by simpa using hc
      constructor
      · rintro (h | h)
        · exact .inl h
        · exact .inr (List.mem_cons_of_mem _ h)
      · rintro (h | h)
        · exact .inl h
        · rcases List.mem_cons.mp h with rfl | h
          · exact .inl this
          · exact .inr h
    · rw [if_neg hc]
      simp only [List.mem_append, List.mem_cons]
      tauto

theorem Block.mem_all (b : Block) : b ∈ Block.all := by cases b <;> decide

/-- Every order names each block exactly once (log entry 2). -/
theorem schedule_perm (order : List Block) : (schedule order).Perm Block.all := by
  have hn : (firstMentions (order ++ Block.all) []).Nodup := firstMentions_nodup _ _ List.nodup_nil
  have hm : ∀ b, b ∈ firstMentions (order ++ Block.all) [] := fun b =>
    (mem_firstMentions _ _ b).mpr (.inr (List.mem_append_right _ (Block.mem_all b)))
  have hp : (firstMentions (order ++ Block.all) []).Perm Block.all :=
    (List.perm_ext_iff_of_nodup hn (by decide)).mpr (fun b => ⟨fun _ => Block.mem_all b, fun _ => hm b⟩)
  unfold schedule
  dsimp only
  split
  · exact hp
  · refine ((hp.filter (· != .moves)).flatMap_right _).trans ?_
    decide

/-- An order before and after the one turn it gives a block. -/
theorem schedule_split (order : List Block) (b : Block) :
    ∃ pre post, schedule order = pre ++ b :: post ∧ b ∉ pre ∧ b ∉ post := by
  have hp := schedule_perm order
  have hn : (schedule order).Nodup := hp.nodup_iff.mpr (by decide)
  obtain ⟨pre, post, h⟩ := List.append_of_mem (hp.mem_iff.mpr (Block.mem_all b))
  rw [h] at hn
  refine ⟨pre, post, h, ?_, ?_⟩
  · exact fun hb => (List.nodup_append.mp hn).2.2 b hb b List.mem_cons_self rfl
  · exact (List.nodup_cons.mp (List.nodup_append.mp hn).2.1).1

/-- What the reactions of some blocks keep, a run of those blocks keeps. -/
theorem State.reacts_keep {P : State → Prop} (input : ExpiryInput) (bs : List Block)
    (h : ∀ t, ∀ b ∈ bs, P t → P (t.react input b)) {s : State} (hs : P s) :
    P (bs.foldl (fun t b => t.react input b) s) := by
  induction bs generalizing s with
  | nil => exact hs
  | cons b bs ih =>
    exact ih (fun t c hc => h t c (List.mem_cons_of_mem b hc)) (h s b List.mem_cons_self hs)

/-- A block reacts once at an expiry: what the others keep before its turn, its reaction takes to what they keep after
it, in whatever order. -/
theorem State.expiry_once {P Q : State → Prop} (input : ExpiryInput) (b : Block)
    (before : ∀ t c, c ≠ b → P t → P (t.react input c)) (turn : ∀ t, P t → Q (t.react input b))
    (behind : ∀ t c, c ≠ b → Q t → Q (t.react input c)) {s : State} (hs : P s) : Q (s.expiry input) := by
  obtain ⟨pre, post, h, h1, h2⟩ := schedule_split input.order b
  rw [State.expiry, h, List.foldl_append, List.foldl_cons]
  refine State.reacts_keep input post (fun t c hc => behind t c (fun e => h2 (e ▸ hc))) (turn _ ?_)
  exact State.reacts_keep input pre (fun t c hc => before t c (fun e => h1 (e ▸ hc))) hs

end Sys2Proof.Machine
end

