-- ==== Sys2Proof/Laws/ProfileImage.lean ====
section
/-! SUPPORT. The profile image (R175 to R177): the copy of an image read to its end, and what an accepted one says of the
profile's values. -/

namespace Sys2Proof

theorem imageCopy_length (answered : List Byte) : (imageCopy answered).length = 56 := by
  have h : ∀ f : Nat × Nat, (if f.1 + f.2 ≤ answered.length then (answered.drop f.1).take f.2
      else List.replicate f.2 (0 : Byte)).length = f.2 := by
    intro f
    split
    · simp; omega
    · simp
  simp only [imageCopy, List.length_flatMap, h]
  decide

theorem slices_join (bs : List Byte) (fs : List (Nat × Nat)) (a n : Nat)
    (hf : fs.foldl (fun o f => o.bind (fun x => if x = f.1 then some (x + f.2) else none)) (some a) = some n) :
    fs.flatMap (fun f => (bs.drop f.1).take f.2) = (bs.drop a).take (n - a) ∧ a ≤ n := by
  induction fs generalizing a with
  | nil =>
    simp only [List.foldl_nil, Option.some.injEq] at hf
    subst hf
    simp
  | cons f fs ih =>
    simp only [List.foldl_cons, Option.bind_some] at hf
    by_cases h : a = f.1
    · rw [if_pos h] at hf
      obtain ⟨h1, h2⟩ := ih (a + f.2) hf
      refine ⟨?_, by omega⟩
      rw [List.flatMap_cons, h1, ← h]
      have : n - a = f.2 + (n - (a + f.2)) := by omega
      rw [this, List.take_add, List.drop_drop]
    · rw [if_neg h] at hf
      exfalso
      have : ∀ gs : List (Nat × Nat), gs.foldl (fun o f => o.bind (fun x => if x = f.1 then some (x + f.2) else none))
          (none : Option Nat) = none := by
        intro gs; induction gs with
        | nil => rfl
        | cons g gs ihg => simpa using ihg
      rw [this] at hf
      cases hf

/-- The copy of an image that was read to its end is the image. -/
theorem imageCopy_whole {answered : List Byte} (h : 56 ≤ answered.length) : imageCopy answered = answered.take 56 := by
  have hall : ∀ f ∈ imageFields, f.1 + f.2 ≤ answered.length := by
    have : ∀ f ∈ imageFields, f.1 + f.2 ≤ 56 := by decide
    exact fun f hf => le_trans (this f hf) h
  have hc : imageCopy answered = imageFields.flatMap (fun f => (answered.drop f.1).take f.2) := by
    unfold imageCopy
    rw [List.flatMap_def, List.flatMap_def]
    congr 1
    exact List.map_congr_left (fun f hf => if_pos (hall f hf))
  rw [hc, (slices_join answered imageFields 0 56 (by decide)).1]
  simp

/-- An accepted image was read to its end and passed every test of its judgement (R177). -/
theorem judgeProfile_good {answered : List Byte} {station : Station} (h : (judgeProfile answered station).1 = .good) :
    56 ≤ answered.length ∧ firstOutOfRange (answered.take 56) = none ∧
      (readProfile (answered.take 56)).aLow ≤ (readProfile (answered.take 56)).aHigh ∧
      (readProfile (answered.take 56)).aHigh ≤ (readProfile (answered.take 56)).aStop ∧
      (readProfile (answered.take 56)).pMin < (readProfile (answered.take 56)).pMax := by
  unfold judgeProfile at h
  split at h
  · cases h
  · rename_i hl
    refine ⟨by simpa [imageLength] using hl, ?_⟩
    simp only [imageLength] at h
    generalize answered.take 56 = img at h ⊢
    unfold judgeImage at h
    dsimp only at h
    split at h
    · cases h
    · split at h
      · cases h
      · split at h
        · cases h
        · rename_i hr
          split at h
          · cases h
          · rename_i ha
            split at h
            · cases h
            · rename_i hp
              exact ⟨hr, by omega, by omega, by omega⟩

/-- Every field of an image without a failing field lies in its range (R176). -/
theorem firstOutOfRange_none {img : List Byte} (h : firstOutOfRange img = none) : ∀ t ∈ rangeTests img, t.2 = true := by
  simp only [firstOutOfRange, Option.map_eq_none_iff, List.find?_eq_none] at h
  intro t ht
  simpa using h t ht

/-- The values an accepted profile gives the blocks are in order. -/
theorem judgeProfile_ordered {answered : List Byte} {station : Station}
    (h : (judgeProfile answered station).1 = .good) : Machine.profileOrdered (readProfile (imageCopy answered)) := by
  obtain ⟨hl, hr, h1, h2, -⟩ := judgeProfile_good h
  rw [imageCopy_whole hl]
  have hall := firstOutOfRange_none hr
  generalize answered.take 56 = img at *
  simp only [rangeTests, List.forall_mem_cons] at hall
  obtain ⟨-, -, -, t9, t13, t17, t19, -, -, t31, -⟩ := hall
  simp only [inRange, decide_eq_true_eq] at t19 t31
  refine ⟨by omega, by omega, h1, h2, ?_⟩
  intro ht
  simp only [ht, inRange, Bool.not_true, Bool.false_or, decide_eq_true_eq] at t9 t13 t17
  omega

end Sys2Proof
end

