-- ==== Sys2Proof/Laws/AxisInvariant.lean ====
section
/-! SUPPORT. The axis invariant through the shared operations: what keeps it, and what a transition, an operation of the
setpoint and a report must bring with them. -/

namespace Sys2Proof.Machine

theorem mag_eq_abs (x : Int) : mag x = |x| := by
  unfold mag; split
  · rw [abs_of_neg]; assumption
  · rw [abs_of_nonneg]; omega

/-- The invariant reads the axis state machine, the velocities, the start and whether contexts exist. -/
theorem AxisSafe.congr {s t : State} (h : AxisSafe s) (ha : t.axis = s.axis) (hl : t.limiter = s.limiter)
    (hs : t.start = s.start) (hm : s.moves.none? = true → t.moves.none? = true) : AxisSafe t := by
  obtain ⟨h1, h2, h3, h4, h5, h6⟩ := h
  unfold AxisSafe State.outputsFit State.countsFit State.stillFit State.contextsFit State.startFits State.speedFits
  rw [ha, hl, hs]
  exact ⟨h1, h2, h3, fun x => hm (h4 x), h5, h6⟩

/-- A decided node past NS_CONFIG_FAULT has an accepted profile, and no other node is in those states. -/
theorem AxisSafe.decided {s : State} (h : AxisSafe s) (hn : s.axis.nodeState ≠ .starting) :
    s.start.status ≠ .reading := fun hr => hn (h.2.2.2.2.1.1 hr)

theorem AxisSafe.accepted {s : State} (h : AxisSafe s) (h1 : s.axis.nodeState ≠ .starting)
    (h2 : s.axis.nodeState ≠ .configFault) : s.start.accepted = true := h.2.2.2.2.1.2.1 ⟨h1, h2⟩

theorem AxisSafe.ordered {s : State} (h : AxisSafe s) (ha : s.start.accepted = true) :
    profileOrdered s.start.profile := h.2.2.2.2.1.2.2 ha

/-- A transition keeps the invariant when the profile is decided, and accepted for every state but NS_CONFIG_FAULT. -/
theorem AxisSafe.enter {s : State} (h : AxisSafe s) {new : NodeState} (hd : s.start.status ≠ .reading)
    (ha : new ≠ .configFault → s.start.accepted = true) : AxisSafe (s.enter new) := by
  have hs := (s.enter_only new).start
  refine ⟨?_, ?_, ?_, ?_, ?_, ?_⟩
  · simp [State.outputsFit, Axis.entered]
  · simp [State.countsFit, Axis.entered]
  · intro hst
    simp only [State.enter_axis, Axis.entered] at hst
    simp [limiterAt, hst]
  · intro hne
    simp only [State.enter_axis, Axis.entered] at hne
    rw [State.enter_moves]
    split
    · exact s.haltContexts_none
    · rename_i hc
      exact h.2.2.2.1 (fun x => hc ⟨x, hne⟩)
  · refine ⟨?_, ?_, ?_⟩
    · rw [hs]; exact fun x => absurd x hd
    · rw [hs]
      simp only [State.enter_axis, Axis.entered]
      exact fun x => ha x.2
    · rw [hs]; exact h.2.2.2.2.1.2.2
  · intro hacc
    rw [hs] at hacc ⊢
    simp only [State.enter_limiter, limiterAt]
    split
    · simpa [mag] using (h.ordered hacc).1
    · exact h.2.2.2.2.2 hacc

theorem AxisSafe.settleStop {s : State} (h : AxisSafe s) : AxisSafe s.settleStop := by
  unfold State.settleStop; split
  · rename_i hc
    have hn : s.axis.nodeState ≠ .starting := by rw [hc.1]; decide
    exact h.enter (h.decided hn) (fun _ => h.accepted hn (by rw [hc.1]; decide))
  · exact h

theorem AxisSafe.stopMotion {s : State} (h : AxisSafe s) : AxisSafe s.stopMotion := by
  unfold State.stopMotion; split
  case h_1 hc | h_2 hc | h_3 hc =>
    have hn : s.axis.nodeState ≠ .starting := by rw [hc]; decide
    exact (h.enter (h.decided hn) (fun _ => h.accepted hn (by rw [hc]; decide))).settleStop
  all_goals exact h

/-- A change of cause, latch, or of a count where its state uses it keeps the invariant. -/
theorem AxisSafe.ofAxis {s : State} (h : AxisSafe s) {a : Axis} (hn : a.nodeState = s.axis.nodeState)
    (hb : a.brakeReleased = s.axis.brakeReleased) (he : a.driveEnable = s.axis.driveEnable)
    (hc : State.countsFit { s with axis := a }) : AxisSafe { s with axis := a } := by
  obtain ⟨h1, -, h3, h4, h5, h6⟩ := h
  refine ⟨?_, hc, ?_, ?_, ?_, ?_⟩
  · simp only [State.outputsFit, hn, hb, he]; exact h1
  · simp only [State.stillFit, hn]; exact h3
  · simp only [State.contextsFit, hn]; exact h4
  · simp only [State.startFits, hn]; exact h5
  · exact h6

theorem AxisSafe.setCause {s : State} (h : AxisSafe s) (c : FaultCause) : AxisSafe (s.setCause c) :=
  h.ofAxis rfl rfl rfl h.2.1

theorem AxisSafe.halt {s : State} (h : AxisSafe s) : AxisSafe s.halt := by
  have h1 : AxisSafe s.haltContexts :=
    h.congr s.haltContexts_only.axis s.haltContexts_only.limiter s.haltContexts_only.start (fun _ => s.haltContexts_none)
  exact (h1.ofAxis (a := { s.haltContexts.axis with haltLatch := true }) rfl rfl rfl h1.2.1).stopMotion

theorem AxisSafe.faulting {s : State} (h : AxisSafe s) (c : FaultCause) : AxisSafe (s.faulting c) := by
  unfold State.faulting; dsimp only; split
  · exact h
  · rename_i hc
    refine (h.setCause _).ofAxis rfl rfl rfl ?_
    obtain ⟨h1, h2, h3, -⟩ := h.2.1
    exact ⟨h1, h2, h3, fun x => absurd hc x⟩
  · exact h.setCause _
  all_goals
    rename_i hc
    have hn : s.axis.nodeState ≠ .starting := by rw [hc]; decide
    exact (h.setCause _).enter (h.decided hn) (fun _ => h.accepted hn (by rw [hc]; decide))

theorem AxisSafe.starved {s : State} (h : AxisSafe s) : AxisSafe s.starved := (h.setCause _).stopMotion

theorem AxisSafe.clash {s : State} (h : AxisSafe s) : AxisSafe s.clash := by
  unfold State.clash; split
  · exact h
  · split
    · exact (h.setCause _).stopMotion
    · exact h.stopMotion

/-! ## Velocities -/

theorem boundMag_le {b : Int} (hb : 0 ≤ b) (v : Int) : |boundMag b v| ≤ b ∧ (|boundMag b v| ≤ |v|) := by
  unfold boundMag clamp
  split
  · rename_i h
    have h1 : v < 0 := by omega
    rw [abs_neg, abs_of_nonneg hb, abs_of_neg h1]
    omega
  · split
    · rename_i h1 h2
      rw [abs_of_nonneg hb, abs_of_nonneg (by omega : 0 ≤ v)]
      omega
    · rename_i h1 h2
      refine ⟨abs_le.mpr ⟨by omega, by omega⟩, le_refl _⟩

theorem envelopeBound_nonneg {aLow d : Int} (hd : 0 ≤ d) : 0 ≤ envelopeBound aLow d := by
  unfold envelopeBound; omega

theorem envelope_le (p : Profile) (S v : Int) : |envelope p S v| ≤ |v| := by
  unfold envelope
  split
  · dsimp only
    split
    · simp
    · rename_i h1 h2
      have := envelopeBound_nonneg (aLow := p.aLow) (d := p.pMax * 256 - S) (by omega)
      rw [abs_of_nonneg (by omega), abs_of_pos h1]
      omega
  · split
    · dsimp only
      split
      · simp
      · rename_i h0 h1 h2
        have := envelopeBound_nonneg (aLow := p.aLow) (d := S - p.pMin * 256) (by omega)
        rw [abs_neg, abs_of_nonneg (by omega), abs_of_neg h1]
        omega
    · simp

theorem State.extension_nonneg {s : State} (h : 0 ≤ s.start.profile.lMax) (n : Station) : 0 ≤ s.extension n := by
  unfold State.extension; split
  · unfold clamp
    split
    · omega
    · split <;> omega
  · exact h

theorem State.tipBound_le {s : State} (h : profileOrdered s.start.profile) (v : Int) : |s.tipBound v| ≤ |v| := by
  unfold State.tipBound; split
  · rename_i n _
    split
    · rename_i ht
      obtain ⟨hl, hr, hv⟩ := h.2.2.2.2 ht
      refine (boundMag_le ?_ v).2
      have := State.extension_nonneg (s := s) hl n
      exact Int.ediv_nonneg (by simp only [Config.kTip]; omega) (by omega)
    · exact le_refl _
  · exact le_refl _

/-- The target's magnitude is within V_axis_max (R24, R27). -/
theorem State.target_le {s : State} (h : profileOrdered s.start.profile) (v : Int) :
    |s.target v| ≤ s.start.profile.vAxisMax := by
  unfold State.target
  exact le_trans (envelope_le _ _ _) (le_trans (State.tipBound_le h _) (boundMag_le h.1 _).1)

theorem signOf_mul_le (x y : Int) (h : 0 ≤ y) : |signOf x * y| ≤ y := by
  unfold signOf
  split
  · simp [abs_of_nonneg h]
  · split
    · simp [abs_of_nonneg h]
    · simpa using h

/-- Stage 5 never takes the velocity beyond both the target and the previous velocity. -/
theorem accelerate_le {v w aInc aHigh b : Int} (hi : 0 ≤ aInc) (hh : 0 ≤ aHigh) (hv : |v| ≤ b) (hw : |w| ≤ b) :
    |accelerate v w aInc aHigh| ≤ b := by
  have h0 := abs_nonneg v
  unfold accelerate
  simp only [mag_eq_abs]
  split
  · split
    · exact le_trans (signOf_mul_le _ _ (by omega)) (by omega)
    · exact le_trans (signOf_mul_le _ _ (by omega)) (by omega)
  · split
    · have := abs_nonneg w
      exact le_trans (signOf_mul_le _ _ (by omega)) (by omega)
    · exact le_trans (signOf_mul_le _ _ (by omega)) (by omega)

theorem stopRamp_le {a w b : Int} (ha : 0 ≤ a) (hw : |w| ≤ b) : |stopRamp a w| ≤ b := by
  have h0 := abs_nonneg w
  unfold stopRamp
  simp only [mag_eq_abs]
  split
  · simpa using le_trans h0 hw
  · exact le_trans (signOf_mul_le _ _ (by omega)) (by omega)

theorem State.increase_nonneg {s : State} (h : profileOrdered s.start.profile) : 0 ≤ s.increase := by
  unfold State.increase; split
  · exact le_trans h.2.1 h.2.2.1
  · exact h.2.1

/-- The setpoint operation's own part keeps the invariant. -/
theorem AxisSafe.operate {s : State} (h : AxisSafe s) : AxisSafe s.operate := by
  obtain ⟨-, hs, -, hm, -, ha, -⟩ := s.operate_frame
  obtain ⟨h1, h2, h3, h4, h5, h6⟩ := h
  have hlim : s.operate.axis.nodeState.still = true → s.operate.limiter.vc = 0 ∧ s.operate.limiter.vPrev = 0 := by
    rw [ha]
    unfold State.operate
    split <;> rename_i hn <;> rw [hn] <;> simp [NodeState.still]
  have hsp : s.start.accepted = true → mag s.operate.limiter.vc ≤ s.start.profile.vAxisMax := by
    intro hacc
    have ho := h5.2.2 hacc
    have hv := h6 hacc
    rw [mag_eq_abs] at hv ⊢
    unfold State.operate
    split
    case h_1 | h_2 =>
      exact accelerate_le (State.increase_nonneg ho) (le_trans ho.2.1 ho.2.2.1) (State.target_le ho _) hv
    case h_3 =>
      exact stopRamp_le (le_trans ho.2.1 (le_trans ho.2.2.1 ho.2.2.2.1)) hv
    all_goals simpa using ho.1
  refine ⟨?_, ?_, hlim, ?_, ?_, ?_⟩
  · simp only [State.outputsFit, ha]; exact h1
  · simp only [State.countsFit, ha]; exact h2
  · simp only [State.contextsFit, ha, hm]; exact h4
  · simp only [State.startFits, ha, hs]; exact h5
  · simp only [State.speedFits, hs]; exact hsp

theorem AxisSafe.handedOver {s : State} (h : AxisSafe s) (n : NodeState) : AxisSafe (s.handedOver n) :=
  h.congr rfl rfl rfl id

theorem AxisSafe.reportsTaken {s : State} (h : AxisSafe s) (b : State) : AxisSafe (s.reportsTaken b) := by
  unfold State.reportsTaken; dsimp only
  have h1 : ∀ (t : State) (x : Bool) (c : FaultCause), AxisSafe t → AxisSafe (if x = true then t.faulting c else t) := by
    intro t x c ht; split
    · exact ht.faulting c
    · exact ht
  have h2 := h1 _ (becameThree b.drive.following s.drive.following) .following
    (h1 s (becameThree b.drive.silent s.drive.silent) .driveSilent h)
  split
  · exact h2.starved
  · exact h2

theorem AxisSafe.setpointOperation {s : State} (h : AxisSafe s) : AxisSafe s.setpointOperation :=
  ((h.operate.handedOver _).reportsTaken _).settleStop

/-! ## The contexts -/

/-- An operation of the move engine that leaves none where there was none keeps the invariant. -/
theorem AxisSafe.movesOnly {s t : State} (h : AxisSafe s) (ho : s.MovesOnly t)
    (hm : s.moves.none? = true → t.moves.none? = true) : AxisSafe t :=
  h.congr ho.axis ho.limiter ho.start hm

theorem Moves.none?_iff (m : Moves) : m.none? = true ↔ m.active = none ∧ m.pending = none := by
  simp [Moves.none?]

/-- The move engine makes no context of itself. -/
theorem State.moveReaction_idle {s : State} (h : s.moves.none? = true) : s.moveReaction.moves.none? = true := by
  obtain ⟨ha, hp⟩ := s.moves.none?_iff.mp h
  have hc : s.countdowns = s := by simp [State.countdowns, State.countPlace, Moves.at, ha, hp]
  simp [State.moveReaction, hc, State.playbackStep, ha, hp, Moves.none?]

theorem State.peerReaction_idle {s : State} (h : s.moves.none? = true) : s.peerReaction.moves.none? = true := by
  have key : ∀ (ns : List Station) (t : State), t.moves.none? = true → (ns.foldl State.agePeer t).moves.none? = true := by
    intro ns
    induction ns with
    | nil => exact fun t ht => ht
    | cons n ns ih =>
      intro t ht
      apply ih
      unfold State.agePeer; split
      · exact ht
      · dsimp only; split
        · rw [State.staleNotice_idle (by exact ht)]; exact ht
        · exact ht
  have := key allStations s h
  unfold State.peerReaction
  rw [State.ageStick_moves]
  exact this

/-! ## The blocks' reactions -/

theorem AxisSafe.peerReaction {s : State} (h : AxisSafe s) : AxisSafe s.peerReaction :=
  h.congr s.peerReaction_only.axis s.peerReaction_only.limiter s.peerReaction_only.start State.peerReaction_idle

theorem AxisSafe.moveReaction {s : State} (h : AxisSafe s) : AxisSafe s.moveReaction :=
  h.movesOnly s.moveReaction_only State.moveReaction_idle

theorem AxisSafe.surgeReaction {s : State} (h : AxisSafe s) : AxisSafe s.surgeReaction := h.congr rfl rfl rfl id

theorem AxisSafe.axisReaction {s : State} (h : AxisSafe s) : AxisSafe s.axisReaction := by
  unfold State.axisReaction; split
  · rename_i hc
    have hn : s.axis.nodeState ≠ .starting := by rw [hc]; decide
    have hacc := h.accepted hn (by rw [hc]; decide)
    have hw : AxisSafe s.brakeWait := by
      unfold State.brakeWait; split
      · exact h.faulting _
      · refine h.ofAxis rfl rfl rfl ?_
        obtain ⟨h1, h2, h3, h4⟩ := h.2.1
        exact ⟨fun x => absurd hc x.1, h2, h3, h4⟩
    unfold State.releaseStep; split
    · split
      · exact h.enter (h.decided hn) (fun _ => hacc)
      · refine h.ofAxis rfl rfl rfl ?_
        obtain ⟨h1, h2, h3, h4⟩ := h.2.1
        exact ⟨fun x => absurd hc x.1, h2, h3, h4⟩
    · split
      · refine h.ofAxis rfl rfl rfl ?_
        obtain ⟨h1, h2, h3, h4⟩ := h.2.1
        exact ⟨h1, h2, fun x => absurd hc x, h4⟩
      · exact hw
  · rename_i hc
    have hn : s.axis.nodeState ≠ .starting := by rw [hc]; decide
    have hacc := h.accepted hn (by rw [hc]; decide)
    unfold State.engageStep; split
    · unfold State.brakeWait; split
      · exact h.faulting _
      · refine h.ofAxis rfl rfl rfl ?_
        obtain ⟨h1, h2, h3, h4⟩ := h.2.1
        exact ⟨fun x => absurd hc x.2, h2, h3, h4⟩
    · exact h.enter (h.decided hn) (fun _ => hacc)
  · rename_i hc
    have hn : s.axis.nodeState ≠ .starting := by rw [hc]; decide
    split
    · exact h.enter (h.decided hn) (fun _ => h.accepted hn (by rw [hc]; decide))
    · exact h
  all_goals exact h

theorem AxisSafe.lineReaction {s : State} (h : AxisSafe s) (levels : Lines Bool) : AxisSafe (s.lineReaction levels) := by
  have hd : AxisSafe { s with drive := { s.drive with lines := s.sampledLines levels } } := h.congr rfl rfl rfl id
  have he : ∀ t : State, AxisSafe t → AxisSafe t.estopPressed := by
    intro t ht
    have : AxisSafe (t.hand .halt (plain (.halt .estopLine))) := ht.congr rfl rfl rfl id
    exact this.halt
  unfold State.lineReaction; dsimp only
  split
  · refine AxisSafe.faulting ?_ _
    split
    · exact he _ hd
    · exact hd
  · split
    · exact he _ hd
    · exact hd

theorem AxisSafe.storeReaction {s : State} (h : AxisSafe s) (b : Bool) : AxisSafe (s.storeReaction b) := by
  obtain ⟨-, hs, -, -, hl, -, hm, ha, -⟩ := s.storeReaction_frame b
  exact h.congr ha hl hs (by rw [hm]; exact id)

/-- Every block's reaction keeps the axis invariant, so an expiry does. -/
theorem AxisSafe.expiry {s : State} (h : AxisSafe s) (input : ExpiryInput) : AxisSafe (s.expiry input) := by
  refine State.expiry_keeps input (fun t b ht => ?_) h
  cases b <;> simp only [State.react]
  · exact ht.peerReaction
  · exact ht.moveReaction
  · exact ht.surgeReaction
  · exact ht.axisReaction
  · exact ht.lineReaction _
  · exact ht.storeReaction _
  · exact ht.setpointOperation

/-! ## Commands -/

/-- A node at the beginning of a start is safe. -/
theorem AxisSafe.atStart (straps : Station) (regions : Vector Region 48) (queue : List Instr) :
    AxisSafe (State.atStart straps regions queue) := by
  refine ⟨⟨rfl, rfl⟩, ?_, ?_, ?_, ?_, ?_⟩ <;>
    simp [State.countsFit, State.stillFit, State.contextsFit, State.startFits, State.speedFits, State.atStart,
      Axis.reset, StartUp.reset, StartUp.accepted, Moves.reset, Moves.none?, NodeState.still]

theorem AxisSafe.finishStarting {s : State} (h : AxisSafe s) : AxisSafe s.finishStarting := by
  unfold State.finishStarting; split
  · rename_i hc
    have hd : s.start.status ≠ .reading := by
      have := hc.2
      simp only [State.startingDone, StartUp.decided, Bool.and_eq_true, bne_iff_ne] at this
      exact this.1.1
    unfold State.leaveStarting
    split
    · exact (h.enter hd (fun x => absurd rfl x)).setCause _
    · rename_i ha
      have ha : s.start.accepted = true := by simpa using ha
      split <;> exact h.enter hd (fun _ => ha)
  · exact h

/-- A profile decision keeps the invariant: an accepted profile's values are in order, and the node that takes it is at
rest. -/
theorem AxisSafe.profileStep {s : State} (h : AxisSafe s) (answered : List Byte) : AxisSafe (s.profileStep answered) := by
  unfold State.profileStep; split
  · exact h
  · rename_i hd
    have hr : s.start.status = .reading := by simpa [StartUp.decided] using hd
    apply AxisSafe.finishStarting
    obtain ⟨h1, h2, h3, h4, h5, -⟩ := h
    have hst := h5.1 hr
    have hv := h3 (by rw [hst]; rfl)
    have hg : (s.decideProfile answered).start.accepted = true →
        profileOrdered (s.decideProfile answered).start.profile := by
      intro ha
      have hg : (judgeProfile answered s.start.station).1 = .good := by
        simpa [State.decideProfile, StartUp.accepted] using ha
      simp only [State.decideProfile, hg, if_true]
      exact judgeProfile_ordered hg
    refine ⟨h1, h2, h3, h4, ⟨fun _ => hst, fun x => absurd hst x.1, hg⟩, ?_⟩
    intro ha
    have hv0 : (s.decideProfile answered).limiter.vc = 0 := hv.1
    rw [hv0]
    exact (hg ha).1

/-- Commands with tests keep the invariant when what they do with every test passed does. -/
theorem AxisSafe.tested {s : State} (h : AxisSafe s) (tag : Byte) (ts : List (Bool × ResultCode)) (act : State → State)
    (ha : (∀ t ∈ ts, t.1 = true) → AxisSafe (act s)) : AxisSafe (s.tested tag ts act) := by
  rcases s.tested_cases tag ts act with ⟨t, -, -, e⟩ | ⟨hp, e⟩ <;> rw [e]
  · exact h.congr rfl rfl rfl id
  · exact (ha hp).congr rfl rfl rfl id

/-- In NS_ACTIVE the move engine may do what it will. -/
theorem AxisSafe.inActive {s t : State} (h : AxisSafe s) (ho : s.MovesOnly t) (ha : s.axis.nodeState = .active) :
    AxisSafe t := by
  obtain ⟨h1, h2, h3, -, h5, h6⟩ := h
  unfold AxisSafe State.outputsFit State.countsFit State.stillFit State.contextsFit State.startFits State.speedFits
  rw [ho.axis, ho.limiter, ho.start]
  exact ⟨h1, h2, h3, fun x => absurd ha x, h5, h6⟩

/-- And so it may in a node that has a context. -/
theorem AxisSafe.withContext {s t : State} (h : AxisSafe s) (ho : s.MovesOnly t) (ha : s.moves.none? = false) :
    AxisSafe t := by
  refine h.inActive ho ?_
  by_contra hc
  rw [h.2.2.2.1 hc] at ha
  cases ha

end Sys2Proof.Machine
end

