-- ==== Sys2Proof/Laws/LinkInvariant.lean ====
section
/-! SUPPORT. The invariants of the link interface and of the surge unit through the shared operations. -/

namespace Sys2Proof.Machine

/-! ## The owed count and its cause -/

theorem OwedSafe.congr {s t : State} (h : OwedSafe s) (ho : t.link.owed = s.link.owed)
    (hc : t.axis.cause = s.axis.cause) : OwedSafe t := by
  unfold OwedSafe; rw [ho, hc]; exact h

theorem OwedSafe.enter {s : State} (h : OwedSafe s) (new : NodeState) : OwedSafe (s.enter new) :=
  h.congr (s.enter_only new).owed (by simp [Axis.entered])

theorem OwedSafe.settleStop {s : State} (h : OwedSafe s) : OwedSafe s.settleStop :=
  h.congr s.settleStop_only.owed (by simp)

theorem OwedSafe.stopMotion {s : State} (h : OwedSafe s) : OwedSafe s.stopMotion :=
  h.congr s.stopMotion_only.owed (by simp)

theorem OwedSafe.halt {s : State} (h : OwedSafe s) : OwedSafe s.halt := h.congr s.halt_only.owed (by simp)

/-- FC_LINK_STARVED with nine frames owed is replaced by no other cause (R146). -/
theorem causeAfterFaulting_starved (c : FaultCause) : causeAfterFaulting .linkStarved c 9 = .linkStarved := by
  simp [causeAfterFaulting]

theorem OwedSafe.setCause {s : State} (h : OwedSafe s) {c : FaultCause} (hc : s.link.owed = 9 → c = .linkStarved) :
    OwedSafe (s.setCause c) := ⟨h.1, hc⟩

theorem OwedSafe.faulting {s : State} (h : OwedSafe s) (c : FaultCause) : OwedSafe (s.faulting c) := by
  have h1 : OwedSafe (s.setCause (causeAfterFaulting s.axis.cause c s.link.owed)) := by
    refine h.setCause (fun ho => ?_)
    rw [h.2 ho, ho, causeAfterFaulting_starved]
  unfold State.faulting; dsimp only; split
  · exact h
  · exact h1.congr rfl rfl
  · exact h1
  all_goals exact h1.enter _

theorem OwedSafe.starved {s : State} (h : s.link.owed ≤ 9) : OwedSafe s.starved := by
  refine ⟨?_, fun _ => s.starved_cause⟩
  rw [s.starved_only.owed]; exact h

theorem OwedSafe.clash {s : State} (h : OwedSafe s) : OwedSafe s.clash := by
  unfold State.clash; split
  · exact h
  · refine OwedSafe.stopMotion ?_
    split
    · rename_i hc
      exact h.setCause (fun ho => by have := h.2 ho; rw [hc] at this; cases this)
    · exact h

/-- A hand-over: the count rises by at most one, and its ninth frame is reported before anything else looks
(R151, R168, R169). -/
theorem OwedSafe.reports {s : State} (h : OwedSafe s) (n : NodeState) : OwedSafe ((s.handedOver n).reportsTaken s) := by
  have hle : (s.handedOver n).link.owed ≤ 9 := by
    simp only [State.handedOver_link, Link.placeState_owed]
    split
    · exact h.1
    · exact Nat.min_le_right _ _
  have hkeep : ∀ (t : State) (b : Bool) (c : FaultCause),
      (if b = true then t.faulting c else t).link.owed = t.link.owed := by
    intro t b c; split
    · exact (t.faulting_only c).owed
    · rfl
  unfold State.reportsTaken; dsimp only
  split
  · apply OwedSafe.starved
    rw [hkeep, hkeep]; exact hle
  · rename_i hns
    have hsafe : OwedSafe (s.handedOver n) := by
      refine ⟨hle, fun ho => ?_⟩
      by_cases h9 : s.link.owed = 9
      · exact h.2 h9
      · exfalso
        apply hns
        have := h.1
        simp only [starvedBetween, ho, decide_eq_true_eq]
        exact ⟨by simp only [Config.owedLimit]; omega, rfl⟩
    have hf : ∀ (t : State) (b : Bool) (c : FaultCause), OwedSafe t → OwedSafe (if b = true then t.faulting c else t) := by
      intro t b c ht; split
      · exact ht.faulting c
      · exact ht
    exact hf _ _ _ (hf _ _ _ hsafe)

theorem OwedSafe.setpointOperation {s : State} (h : OwedSafe s) : OwedSafe s.setpointOperation := by
  have hf := s.operate_frame
  have ho : OwedSafe s.operate := h.congr hf.2.2.2.2.2.2.2.2.1 (by rw [hf.2.2.2.2.2.1])
  exact (ho.reports _).settleStop

/-! ## The lanes -/

/-- Safety of the lanes reads how many frames count against each. -/
theorem LanesSafe.mono {s t : State} (h : LanesSafe s) (hl : ∀ k, t.link.load k ≤ s.link.load k) : LanesSafe t :=
  fun k hk => le_trans (hl k) (h k hk)

theorem LanesSafe.hand {s : State} (h : LanesSafe s) (k : Lane) (q : Queued) : LanesSafe (s.hand k q) :=
  Link.hand_fits k q h

theorem LanesSafe.enter {s : State} (h : LanesSafe s) (new : NodeState) : LanesSafe (s.enter new) :=
  h.mono (s.enter_load_le new)

theorem LanesSafe.faulting {s : State} (h : LanesSafe s) (c : FaultCause) : LanesSafe (s.faulting c) :=
  h.mono (s.faulting_load_le c)

theorem LanesSafe.halt {s : State} (h : LanesSafe s) : LanesSafe s.halt := h.mono s.halt_load_le

/-- A placement leaves one STATE frame in its lane and the other lanes as they stand (R168). -/
theorem Link.placeState_fits {l : Link} (r : StateReport) (h : ∀ k ∈ Lane.all, l.load k ≤ k.capacity) :
    ∀ k ∈ Lane.all, (l.placeState r).load k ≤ k.capacity := by
  intro k hk
  have hl : (l.placeState r).laneOnLine k = l.laneOnLine k := rfl
  cases k
  case state => simp [Link.load, Link.lane, Link.placeState, Lane.capacity]
  all_goals
    have := h _ hk
    unfold Link.load at this ⊢
    rw [hl, Link.placeState_lane _ _ (by decide)]
    exact this

/-! ## The surge unit -/

theorem SurgeSafe.congr {s t : State} (h : SurgeSafe s) (hs : t.surge = s.surge) : SurgeSafe t := by
  unfold SurgeSafe; rw [hs]; exact h

/-- A transition ends a claim or a grant, or leaves the unit (R65). -/
theorem SurgeSafe.surgeAt {s : State} (h : SurgeSafe s) (old new : NodeState) : SurgeSafe (s.surgeAt old new) := by
  obtain ⟨h1, h2, h3, h4⟩ := h
  unfold SurgeSafe
  rw [State.surgeAt_surge]
  split
  · rename_i hc
    refine ⟨h1, h2, fun x => (by cases x), fun _ => h4 ?_⟩
    rcases hc.2.2 with e | e <;> rw [e] <;> decide
  · split
    · exact ⟨h1, h2, fun x => (by cases x), fun _ => rfl⟩
    · exact ⟨h1, h2, h3, h4⟩

theorem SurgeSafe.enter {s : State} (h : SurgeSafe s) (new : NodeState) : SurgeSafe (s.enter new) :=
  (h.surgeAt s.axis.nodeState new).congr (s.enter_surge new)

theorem SurgeSafe.settleStop {s : State} (h : SurgeSafe s) : SurgeSafe s.settleStop := by
  unfold State.settleStop; split
  · exact h.enter _
  · exact h

theorem SurgeSafe.stopMotion {s : State} (h : SurgeSafe s) : SurgeSafe s.stopMotion := by
  unfold State.stopMotion; split
  case h_1 | h_2 | h_3 => exact (h.enter _).settleStop
  all_goals exact h

theorem SurgeSafe.faulting {s : State} (h : SurgeSafe s) (c : FaultCause) : SurgeSafe (s.faulting c) := by
  have h1 : ∀ c, SurgeSafe (s.setCause c) := fun c => h.congr rfl
  unfold State.faulting; dsimp only; split
  case h_1 | h_2 | h_3 => exact h
  all_goals exact (h1 _).enter _

/-- The unit's own reaction to an expiry (R62 to R64). -/
theorem SurgeSafe.surgeReaction {s : State} (h : SurgeSafe s) : SurgeSafe s.surgeReaction := by
  obtain ⟨h1, h2, h3, h4⟩ := h
  have hw : (agedWindow s.surge.window).length ≤ 4 := by
    unfold agedWindow
    exact le_trans (List.length_filter_le _ _) (by simpa using h1)
  have hl : ∀ c ∈ agedWindow s.surge.window, 1 ≤ c.life ∧ c.life ≤ 40 := by
    intro c hc
    simp only [agedWindow, List.mem_filter, List.mem_map, bne_iff_ne] at hc
    obtain ⟨⟨d, hd, rfl⟩, hne⟩ := hc
    have := h2 d hd
    exact ⟨Nat.pos_of_ne_zero hne, le_trans (Nat.sub_le _ _) this.2⟩
  unfold SurgeSafe
  simp only [State.surgeReaction_surge, Surge.statusStep]
  split
  · rename_i hg
    have := h3 hg
    split
    · exact ⟨hw, hl, fun x => (by cases x), fun _ => rfl⟩
    · exact ⟨hw, hl, fun _ => ⟨by dsimp only at *; omega, by dsimp only; omega⟩, fun x => absurd hg x⟩
  · rename_i hg
    exact ⟨hw, hl, fun x => (by cases x), fun _ => h4 (by rw [hg]; decide)⟩
  · rename_i hg
    exact ⟨hw, hl, fun x => absurd (hg.symm.trans x) (by decide), fun _ => h4 (by rw [hg]; decide)⟩
  · rename_i hg
    exact ⟨hw, hl, fun x => absurd (hg.symm.trans x) (by decide), fun _ => h4 (by rw [hg]; decide)⟩

end Sys2Proof.Machine
end

