-- ==== Sys2Proof/Laws/Segments.lean ====
section
/-! SUPPORT. The segments of a well-formed preset: durations, boundaries, and the two ends of the segment offset. -/

namespace Sys2Proof

theorem segQ_zero (len : Nat) : segQ 0 len = 0 := by simp [segQ]

theorem segQ_full {len : Nat} (h : 0 < len) : segQ len len = 65536 := by
  simp [segQ, Nat.mul_div_cancel_left _ h]

theorem segE_zero (e : Easing) : segE e 0 = 0 := by cases e <;> simp [segE]

theorem segE_full (e : Easing) : segE e 65536 = 65536 := by cases e <;> simp [segE]

/-- A segment begins with no change made. -/
theorem Preset.offset_zero (p : Preset) (k : Nat) : p.offset k 0 = 0 := by
  simp [Preset.offset, segQ_zero, segE_zero, Machine.truncDiv]

/-- A segment ends on its full change. -/
theorem Preset.offset_full (p : Preset) (k : Nat) (h : 0 < p.segLen k) : p.offset k (p.segLen k) = p.delta k := by
  simp [Preset.offset, segQ_full h, segE_full, Machine.truncDiv]

/-- What a well-formed record says of its keyframes. -/
theorem Preset.wellFormed_keys {p : Preset} (h : p.wellFormed = true) :
    2 ≤ p.keys.length ∧ p.keys.length ≤ 24 ∧ ∃ k ks, p.keys = k :: ks ∧ k.placed = true ∧ k.motion = none ∧
      ∀ x ∈ ks, x.later = true := by
  simp only [Preset.wellFormed, Bool.and_eq_true, decide_eq_true_eq] at h
  obtain ⟨⟨⟨h1, h2⟩, h3⟩, -⟩ := h
  refine ⟨h1, h2, ?_⟩
  cases hk : p.keys with
  | nil => simp [hk] at h3
  | cons k ks =>
    simp [hk] at h3
    exact ⟨k, ks, rfl, h3.1.1, h3.1.2, fun x hx => h3.2 x hx⟩

/-- Every segment of a well-formed record lasts at least a period and at most 30000. -/
theorem Preset.wellFormed_durAt {p : Preset} (h : p.wellFormed = true) {k : Nat} (hk : k + 1 < p.keys.length) :
    1 ≤ p.durAt k ∧ p.durAt k ≤ 30000 := by
  obtain ⟨-, -, a, ks, hl, -, -, hks⟩ := Preset.wellFormed_keys h
  have hlen : k < ks.length := by simpa [hl] using hk
  have := hks ks[k] (List.getElem_mem hlen)
  simp only [Keyframe.later, Bool.and_eq_true] at this
  obtain ⟨-, h2⟩ := this
  cases hm : ks[k].motion with
  | none => simp [hm] at h2
  | some m =>
    simp [hm] at h2
    simp [Preset.durAt, Preset.motionAt, hl, hlen, hm]
    exact of_decide_eq_true h2

/-- Boundaries rise. -/
theorem Preset.bound_le_succ (p : Preset) (k : Nat) : p.bound k ≤ p.bound (k + 1) := by
  simp [Preset.bound]

theorem Preset.bound_mono (p : Preset) {j k : Nat} (h : j ≤ k) : p.bound j ≤ p.bound k := by
  induction h with
  | refl => exact le_refl _
  | step _ ih => exact le_trans ih (p.bound_le_succ _)

/-- Boundaries of a well-formed record rise by at least a period. -/
theorem Preset.bound_lt_succ {p : Preset} (h : p.wellFormed = true) {k : Nat} (hk : k + 1 < p.keys.length) :
    p.bound k + 256 ≤ p.bound (k + 1) := by
  have := (Preset.wellFormed_durAt h hk).1
  simp [Preset.bound, Preset.segLen]
  omega

/-- The total of a well-formed record is at least one period. -/
theorem Preset.total_ge {p : Preset} (h : p.wellFormed = true) : 256 ≤ p.total := by
  have hl := (Preset.wellFormed_keys h).1
  have h0 := Preset.bound_lt_succ h (k := 0) (by omega)
  have := p.bound_mono (j := 1) (k := p.keys.length - 1) (by omega)
  simp [Preset.bound] at h0
  simp only [Preset.total]
  simp [Preset.bound] at this
  omega

/-- `passed` counts the boundaries up to a time that lies in a segment. -/
theorem Preset.passed_eq (p : Preset) (t k : Nat) (h1 : p.bound k ≤ t) (n : Nat) (hk : k ≤ n)
    (h2 : ∀ j, k < j → j ≤ n → t < p.bound j) : p.passed t n = k := by
  induction n with
  | zero => simp [Preset.passed]; omega
  | succ n ih =>
    simp only [Preset.passed]
    by_cases hkn : k = n + 1
    · have hb : p.bound (n + 1) ≤ t := hkn ▸ h1
      rw [if_pos hb]
      have : ∀ m, m ≤ n + 1 → p.passed t m = m := by
        intro m
        induction m with
        | zero => intro _; rfl
        | succ m ihm =>
          intro hm
          simp only [Preset.passed]
          rw [ihm (by omega), if_pos (le_trans (p.bound_mono hm) hb)]
      rw [this n (by omega)]; omega
    · rw [ih (by omega) (fun j hj hj' => h2 j hj (by omega)), if_neg (by have := h2 (n + 1) (by omega) (le_refl _); omega), Nat.add_zero]

end Sys2Proof
end

