-- ==== Sys2Proof/Laws/MovesInvariant.lean ====
section
/-! SUPPORT. The move engine's invariant through the operations on contexts and the parts of the playback step. -/

namespace Sys2Proof.Machine

/-! ## One context -/

theorem Preset.sTrim_le {p : Preset} (h : p.wellFormed = true) : p.sTrim ≤ 256 := by
  simp only [Preset.wellFormed, Bool.and_eq_true, decide_eq_true_eq] at h
  exact h.2.2.2.2

/-- A change of a context that touches neither its preset nor its playback fields. -/
theorem Context.fits_of_same {c d : Context} (h : c.fits) (hp : d.preset = c.preset) (hw : d.w = c.w)
    (hw0 : d.w0 = c.w0) (hf : d.wFloor = c.wFloor) (hr : d.r = c.r) (ht : d.t = c.t)
    (hph : d.phase = .finished → c.phase = .finished) : d.fits := by
  obtain ⟨h1, h2, h3, h4, h5, h6, h7⟩ := h
  refine ⟨hp ▸ h1, hw ▸ h2, hw0 ▸ h3, hf ▸ h4, hr ▸ h5, ?_, ?_⟩
  · rw [ht, hp]; exact h6
  · intro x; rw [ht, hp]; exact h7 (hph x)

theorem Context.fits_fire {c : Context} (h : c.fits) : c.fire.fits := by
  obtain ⟨h1, h2, -⟩ := h
  refine ⟨h1, h2, ?_, ?_, ?_, ?_, ?_⟩ <;> simp [Context.fire]

theorem Context.fits_release {c : Context} (h : c.fits) : c.release.fits := by
  obtain ⟨h1, h2, -, h4, h5, h6, -⟩ := h
  refine ⟨h1, ?_, h2, h4, h5, h6, ?_⟩
  · simp only [Context.release]; split <;> omega
  · intro x; cases x

theorem Context.fits_rearm {c : Context} (h : c.fits) : c.rearm.fits :=
  Context.fits_of_same h rfl rfl rfl rfl rfl rfl (fun x => by cases x)

theorem Context.fits_post {c : Context} (h : c.fits) (lead : Nat) : (c.post lead).fits :=
  Context.fits_of_same h rfl rfl rfl rfl rfl rfl (fun x => by cases x)

theorem Context.fits_joined {c : Context} (h : c.fits) (src : Station) (own : Bool) : (c.joined src own).fits := by
  refine Context.fits_of_same h ?_ ?_ ?_ ?_ ?_ ?_ ?_ <;> simp only [Context.joined] <;> split <;> split <;>
    first | rfl | exact id

theorem Context.fits_spliced {a p : Context} (ha : a.fits) (hp : p.fits) : (a.spliced p).fits := by
  obtain ⟨-, a2, -, -, a5, -⟩ := ha
  refine ⟨hp.1, ?_, ?_, a2, ?_, ?_, ?_⟩
  · simp only [Context.spliced, spliceWeight]; split <;> omega
  · simp [Context.spliced]
  · simp only [Context.spliced]; split <;> omega
  · simp [Context.spliced]
  · intro x
    exfalso
    simp only [Context.spliced] at x
    split at x
    · rename_i h; rcases h with h | h <;> rw [h] at x <;> cases x
    · cases x

theorem Context.fits_gapPart {c : Context} (h : c.fits) : c.gapPart.fits := by
  unfold Context.gapPart
  split
  · exact h
  · split
    · refine Context.fits_of_same h rfl rfl rfl rfl rfl rfl ?_
      dsimp only; split
      · intro x; cases x
      · exact id
    · exact Context.fits_of_same h rfl rfl rfl rfl rfl rfl id

theorem Context.fits_ratePart {c : Context} (h : c.fits) : c.ratePart.fits := by
  obtain ⟨h1, h2, h3, h4, h5, h6, h7⟩ := h
  unfold Context.ratePart
  split
  · refine ⟨h1, h2, h3, h4, le_trans (Nat.sub_le _ _) h5, h6, ?_⟩
    dsimp only; split <;> intro x <;> cases x
  · refine ⟨h1, h2, h3, h4, Nat.min_le_left _ _, h6, ?_⟩
    dsimp only; split <;> intro x <;> cases x
  all_goals exact ⟨h1, h2, h3, h4, h5, h6, h7⟩

theorem Context.advanced_le (c : Context) (b : Bool) : c.advanced b ≤ c.preset.total := by
  unfold Context.advanced; dsimp only; split
  · exact le_trans (Nat.min_le_left _ _) (Nat.min_le_right _ _)
  · exact Nat.min_le_right _ _

theorem Context.fits_moved {c : Context} (h : c.fits) (hp : Phase.advances c.phase = true) (b : Bool) :
    (c.moved b).fits := by
  obtain ⟨h1, h2, h3, h4, h5, h6, -⟩ := h
  unfold Context.moved; dsimp only; split
  · rename_i ht
    exact ⟨h1, h2, h3, h4, h5, le_of_eq ht, fun _ => ht⟩
  · refine ⟨h1, h2, h3, h4, h5, c.advanced_le b, ?_⟩
    intro x
    simp only at x
    rw [x] at hp; cases hp

theorem Context.fits_dwellPart {c : Context} (h : c.fits) : c.dwellPart.fits := by
  unfold Context.dwellPart; dsimp only; split
  · exact Context.fits_release (Context.fits_of_same h rfl rfl rfl rfl rfl rfl id)
  · exact Context.fits_of_same h rfl rfl rfl rfl rfl rfl id

theorem fadeInWeight_le {fIn wFloor n : Nat} (h : wFloor ≤ 256) (hn : n ≤ fIn) : fadeInWeight fIn wFloor n ≤ 256 := by
  unfold fadeInWeight
  refine Nat.max_le.mpr ⟨h, ?_⟩
  split
  · exact le_refl _
  · rename_i h0
    exact Nat.div_le_of_le_mul (by rw [Nat.mul_comm fIn]; exact Nat.mul_le_mul_left _ hn)

theorem fadeOutWeight_le {fOut w0 n : Nat} (h : w0 ≤ 256) : fadeOutWeight fOut w0 n ≤ 256 := by
  unfold fadeOutWeight; split
  · omega
  · exact le_trans (Nat.div_le_of_le_mul (by rw [Nat.mul_comm fOut]; exact Nat.mul_le_mul_left _ (Nat.sub_le _ _))) h

theorem Context.fits_weightPart {c : Context} (h : c.fits) : c.weightPart.fits := by
  obtain ⟨h1, h2, h3, h4, h5, h6, h7⟩ := h
  unfold Context.weightPart
  split
  case h_1 | h_2 => exact ⟨h1, fadeInWeight_le h4 (Nat.min_le_right _ _), h3, h4, h5, h6, h7⟩
  case h_3 => exact ⟨h1, fadeOutWeight_le h3, h3, h4, h5, h6, h7⟩
  all_goals exact ⟨h1, h2, h3, h4, h5, h6, h7⟩

/-! ## The two places -/

/-- The part of the invariant that the places carry, the hand-over apart. -/
def Moves.safe (m : Moves) : Prop :=
  (∀ a ∈ m.active, a.fits) ∧ (∀ p ∈ m.pending, p.fits) ∧ m.placesFit

/-- A hand-over within its ranges. -/
def HandOver.fits (h : HandOver) : Prop := h.w ≤ 256 ∧ h.sTrim ≤ 256

theorem movesSafe_iff (s : State) : MovesSafe s ↔ s.moves.safe ∧ s.moves.handOver.fits := by
  unfold MovesSafe Moves.safe HandOver.fits
  tauto

/-- With the PENDING place empty only the ACTIVE context counts. -/
theorem Moves.safe_alone {m : Moves} (hp : m.pending = none) (ha : ∀ a ∈ m.active, a.fits) : m.safe := by
  refine ⟨ha, ?_, ?_⟩
  · simp [hp]
  · simp [Moves.placesFit, hp]

/-- Safety reads the two places alone. -/
theorem Moves.safe_congr {m n : Moves} (h : m.safe) (ha : n.active = m.active) (hp : n.pending = m.pending) :
    n.safe := by
  unfold Moves.safe Moves.placesFit
  rw [ha, hp]; exact h

/-- A place emptied: the ACTIVE one only beside an empty PENDING one. -/
theorem Moves.safe_put_none {m : Moves} (h : m.safe) (p : Place) (hp : p = .active → m.pending = none) :
    (m.put p none).safe := by
  cases p
  · exact Moves.safe_alone (hp rfl) (by simp [Moves.put])
  · exact Moves.safe_alone rfl h.1

/-- The ACTIVE context replaced by one in a phase beside which a PENDING one may still stand. -/
theorem Moves.safe_put_active {m : Moves} (h : m.safe) {c : Context} (hc : c.fits)
    (hp : ∀ p ∈ m.pending, c.phase.playing = true ∨ (c.phase = .finished ∧ p.due = true)) :
    (m.put .active (some c)).safe := by
  refine ⟨by simpa [Moves.put] using hc, h.2.1, ?_⟩
  intro p hpm
  exact ⟨(h.2.2 p hpm).1, c, rfl, hp p hpm⟩

/-- The PENDING context replaced by one that has not fired, due if the ACTIVE one has finished. -/
theorem Moves.safe_put_pending {m : Moves} (h : m.safe) {c : Context} (hc : c.fits) (hf : c.phase.fired = false)
    {a : Context} (ha : m.active = some a) (hp : a.phase.playing = true ∨ (a.phase = .finished ∧ c.due = true)) :
    (m.put .pending (some c)).safe := by
  refine ⟨h.1, by simpa [Moves.put] using hc, ?_⟩
  intro p hpm
  simp only [Moves.put, Option.mem_some_iff] at hpm
  subst hpm
  exact ⟨hf, a, ha, hp⟩

/-- A PENDING context stands beside an ACTIVE one. -/
theorem Moves.safe.beside {m : Moves} (h : m.safe) {p : Context} (hp : m.pending = some p) :
    p.phase.fired = false ∧ ∃ a, m.active = some a ∧ (a.phase.playing = true ∨ (a.phase = .finished ∧ p.due = true)) := by
  obtain ⟨h1, a, ha, h2⟩ := h.2.2 p hp
  exact ⟨h1, a, ha, h2⟩

/-- An ACTIVE context that neither plays nor has finished stands alone. -/
theorem Moves.safe.alone {m : Moves} (h : m.safe) {a : Context} (ha : m.active = some a)
    (h1 : a.phase.playing = false) (h2 : a.phase ≠ .finished) : m.pending = none := by
  cases hp : m.pending with
  | none => rfl
  | some p =>
    obtain ⟨-, b, hb, hc⟩ := h.beside hp
    rw [ha] at hb; cases hb
    rcases hc with hc | hc
    · rw [h1] at hc; cases hc
    · exact absurd hc.1 h2

theorem Phase.playing_not_fired {ph : Phase} (h : ph.fired = false) : ph.playing = false ∧ ph ≠ .finished := by
  cases ph <;> simp_all [Phase.fired, Phase.playing]

/-! ## Operations -/

theorem State.discard_pending_safe {s : State} (h : s.moves.safe) : (s.discard .pending).moves.safe := by
  rw [State.discard_moves]
  exact Moves.safe_put_none h .pending (fun x => by cases x)

theorem State.lapseIfStranded_moves (s : State) :
    s.lapseIfStranded.moves = s.moves ∨ s.lapseIfStranded.moves = s.moves.put .pending none := by
  unfold State.lapseIfStranded; split
  · split
    · right; exact State.discard_moves _ _
    · exact .inl rfl
  · exact .inl rfl

/-- The PENDING context replaced, and lapsed where it is no longer due beside a finished one (R90). -/
theorem State.lapse_put_pending_safe {s : State} (h : s.moves.safe) {c : Context} (hc : c.fits)
    (hf : c.phase.fired = false) {q : Context} (hq : s.moves.pending = some q) :
    ((s.putContext .pending (some c)).lapseIfStranded).moves.safe := by
  obtain ⟨-, a, ha, hp⟩ := h.beside hq
  by_cases hpl : a.phase.playing = true ∨ (a.phase = .finished ∧ c.due = true)
  · rcases State.lapseIfStranded_moves (s.putContext .pending (some c)) with e | e
    · rw [e]; exact Moves.safe_put_pending h hc hf ha hpl
    · rw [e]; exact Moves.safe_put_none (Moves.safe_put_pending h hc hf ha hpl) .pending (fun x => by cases x)
  · have hfin : a.phase = .finished ∧ c.due = false := by
      rcases hp with hp | hp
      · exact absurd (.inl hp) hpl
      · refine ⟨hp.1, ?_⟩
        cases hd : c.due
        · rfl
        · exact absurd (.inr ⟨hp.1, hd⟩) hpl
    have e : (s.putContext .pending (some c)).lapseIfStranded = (s.putContext .pending (some c)).discard .pending := by
      simp [State.lapseIfStranded, Moves.put, ha, hfin.1, hfin.2, State.lapse]
    rw [e, State.discard_moves]
    exact Moves.safe_alone rfl h.1

theorem State.abandonPending_safe {s : State} (h : s.moves.safe) (a : AbandonReason) :
    (s.abandonPending a).moves.safe := by
  unfold State.abandonPending; split
  · exact State.discard_pending_safe (Moves.safe_congr h rfl rfl)
  · exact h

/-- After the ACTIVE context is abandoned the PENDING place is empty. -/
theorem State.abandonPending_moves (s : State) (a : AbandonReason) :
    (s.abandonPending a).moves.pending = none ∧ (s.abandonPending a).moves.active = s.moves.active ∧
    (s.abandonPending a).moves.handOver = s.moves.handOver := by
  unfold State.abandonPending; split
  · rw [State.discard_moves]; exact ⟨rfl, rfl, rfl⟩
  · rename_i hn; exact ⟨by simpa using hn, rfl, rfl⟩

theorem State.abandonActive_safe {s : State} (h : s.moves.safe) (a : AbandonReason) :
    (s.abandonActive a).moves.safe := by
  unfold State.abandonActive; split
  · exact h
  · rename_i c hc
    split
    · exact h
    · split
      · obtain ⟨hp, ha, -⟩ := State.abandonPending_moves ((s.setAbandon a).putContext .active (some c.release)) a
        refine Moves.safe_alone hp ?_
        rw [ha]
        intro x hx
        simp only [State.putContext_moves, Moves.put, Option.mem_some_iff] at hx
        subst hx
        exact Context.fits_release (h.1 c hc)
      · obtain ⟨hp, ha, -⟩ := State.abandonPending_moves ((s.setAbandon a).discard .active) a
        refine Moves.safe_alone hp ?_
        rw [ha, State.discard_moves]
        simp [Moves.put]

theorem State.abandon_safe {s : State} (h : s.moves.safe) (p : Place) (a : AbandonReason) :
    (s.abandon p a).moves.safe := by
  cases p
  · exact State.abandonActive_safe h a
  · exact State.abandonPending_safe h a

theorem State.haltContexts_safe (s : State) : s.haltContexts.moves.safe := by
  rw [State.haltContexts_moves]
  exact Moves.safe_alone rfl (by simp)

theorem State.enter_safe {s : State} (h : s.moves.safe) (new : NodeState) : (s.enter new).moves.safe := by
  rw [State.enter_moves]; split
  · exact s.haltContexts_safe
  · exact h

/-! ## Countdowns and notices -/

theorem State.gatherExpiry_safe {s : State} (h : s.moves.safe) {p : Place} {c : Context} (hc : s.moves.at p = some c)
    (hg : c.phase = .gather) : (s.gatherExpiry p c).moves.safe := by
  unfold State.gatherExpiry
  split
  · cases p
    · have hal := h.alone hc (by rw [hg]; rfl) (by rw [hg]; decide)
      refine Moves.safe_alone hal ?_
      intro x hx
      simp only [State.putContext_moves, Moves.put, Option.mem_some_iff] at hx
      subst hx
      exact Context.fits_of_same (h.1 c hc) rfl rfl rfl rfl rfl rfl (fun x => by cases x)
    · obtain ⟨-, a, ha, hp⟩ := h.beside hc
      have hs : (s.putContext .pending (some { c with phase := .armed, gatherCd := 0, armedCd := 30000 })).moves.safe :=
        Moves.safe_put_pending h
          (Context.fits_of_same (h.2.1 c hc) rfl rfl rfl rfl rfl rfl (fun x => by cases x)) rfl ha hp
      dsimp only
      split
      · exact hs
      · exact State.abandonPending_safe hs _
  · split
    · exact State.abandon_safe h p _
    all_goals exact State.abandon_safe h p _

theorem State.countPlace_safe {s : State} (h : s.moves.safe) (p : Place) : (s.countPlace p).moves.safe := by
  have key : ∀ c, s.moves.at p = some c → ∀ d : Context, d.fits → d.phase.fired = false → c.phase.fired = false →
      (c.due = true → d.due = true) → (s.putContext p (some d)).moves.safe := by
    intro c hc d hd hdf hcf hdue
    cases p
    · have hal := h.alone hc (Phase.playing_not_fired hcf).1 (Phase.playing_not_fired hcf).2
      refine Moves.safe_alone hal ?_
      intro x hx
      simp only [State.putContext_moves, Moves.put, Option.mem_some_iff] at hx
      subst hx; exact hd
    · obtain ⟨-, a, ha, hp⟩ := h.beside hc
      exact Moves.safe_put_pending h hd hdf ha (hp.imp_right (fun x => ⟨x.1, hdue x.2⟩))
  unfold State.countPlace; split
  · exact h
  · rename_i c hc
    have hf : c.fits := by cases p; exacts [h.1 c hc, h.2.1 c hc]
    split
    · rename_i hg
      split
      · exact State.gatherExpiry_safe h hc hg
      · exact key c hc _ (Context.fits_of_same hf rfl rfl rfl rfl rfl rfl id) (by rw [hg]; rfl) (by rw [hg]; rfl) id
    · rename_i hg
      split
      · exact State.abandon_safe h p _
      · exact key c hc _ (Context.fits_of_same hf rfl rfl rfl rfl rfl rfl id) (by rw [hg]; rfl) (by rw [hg]; rfl) id
    · rename_i hg
      split
      · exact key c hc _ (Context.fits_of_same hf rfl rfl rfl rfl rfl rfl id) (by rw [hg]; rfl) (by rw [hg]; rfl) id
      · cases p
        · have hal := h.alone hc (by rw [hg]; rfl) (by rw [hg]; decide)
          refine Moves.safe_alone hal ?_
          intro x hx
          simp only [State.putContext_moves, Moves.put, Option.mem_some_iff] at hx
          subst hx; exact Context.fits_fire hf
        · exact key c hc _ (Context.fits_of_same hf rfl rfl rfl rfl rfl rfl id) (by rw [hg]; rfl) (by rw [hg]; rfl)
            (fun _ => rfl)
    all_goals exact h

theorem State.countdowns_safe {s : State} (h : s.moves.safe) : s.countdowns.moves.safe :=
  State.countPlace_safe (State.countPlace_safe h _) _

theorem State.staleFired_safe {s : State} (h : s.moves.safe) (n : Station) : (s.staleFired n).moves.safe := by
  unfold State.staleFired; split
  · exact h
  · rename_i c hc
    split
    · exact Moves.safe_put_active h
        (Context.fits_of_same (h.1 c hc) rfl rfl rfl rfl rfl rfl (fun x => by cases x)) (fun _ _ => .inl rfl)
    · exact h

theorem State.stalePosted_safe {s : State} (h : s.moves.safe) (p : Place) (n : Station) :
    (s.stalePosted p n).moves.safe := by
  unfold State.stalePosted; split
  · exact h
  · rename_i c hc
    split
    · rename_i hcond
      cases p
      · have hal := h.alone hc (by rw [hcond.1]; rfl) (by rw [hcond.1]; decide)
        refine Moves.safe_alone hal ?_
        intro x hx
        simp only [State.handHold_moves, State.putContext_moves, Moves.put, Option.mem_some_iff] at hx
        subst hx; exact Context.fits_rearm (h.1 c hc)
      · exact State.lapse_put_pending_safe h (Context.fits_rearm (h.2.1 c hc)) rfl hc
    · exact h

theorem State.staleNotice_safe {s : State} (h : s.moves.safe) (n : Station) : (s.staleNotice n).moves.safe :=
  State.stalePosted_safe (State.stalePosted_safe (State.staleFired_safe h n) _ n) _ n

theorem State.setCheck_safe {s : State} (h : s.moves.safe) (p : Place) (n : Station) : (s.setCheck p n).moves.safe := by
  unfold State.setCheck; split
  · split
    · exact State.abandon_safe h p _
    · exact h
  · exact h

theorem State.updateNotice_safe {s : State} (h : s.moves.safe) (n : Station) : (s.updateNotice n).moves.safe :=
  State.setCheck_safe (State.setCheck_safe h _ n) _ n

theorem State.agePeers_safe {s : State} (h : s.moves.safe) (ns : List Station) :
    (ns.foldl State.agePeer s).moves.safe := by
  induction ns generalizing s with
  | nil => exact h
  | cons n ns ih =>
    apply ih
    unfold State.agePeer; split
    · exact h
    · dsimp only; split
      · refine State.staleNotice_safe ?_ n
        exact h
      · exact h

/-! ## The playback step -/

/-- Between the splice and the advance a PENDING context stands only beside one that plays. -/
def Moves.playingPair (m : Moves) : Prop := ∀ p ∈ m.pending, ∃ a ∈ m.active, a.phase.playing = true

theorem onBound_total (p : Preset) {n : Nat} (h : 0 < n) : p.onBound (p.bound n) n = true := by
  cases n with
  | zero => omega
  | succ n => simp [Preset.onBound]

theorem State.splicePart_safe {s : State} (h : s.moves.safe) :
    s.splicePart.moves.safe ∧ s.splicePart.moves.playingPair := by
  unfold State.splicePart
  split
  · split
    · rename_i old new ho hn
      refine ⟨Moves.safe_alone rfl ?_, by simp [Moves.playingPair]⟩
      intro x hx
      simp only [Option.mem_some_iff] at hx
      subst hx
      exact Context.fits_spliced (h.1 old ho) (h.2.1 new hn)
    · rename_i hno
      refine ⟨h, ?_⟩
      intro p hp
      obtain ⟨-, a, ha, -⟩ := h.beside hp
      exact absurd hp (fun hp => hno a p ha hp)
  · rename_i hns
    refine ⟨h, ?_⟩
    intro p hp
    obtain ⟨-, a, ha, hcase⟩ := h.beside hp
    rcases hcase with hpl | ⟨hfin, hdue⟩
    · exact ⟨a, ha, hpl⟩
    · exfalso
      apply hns
      have hfit := h.1 a ha
      have ht := hfit.2.2.2.2.2.2 hfin
      have hlen := (Preset.wellFormed_keys hfit.1).1
      have hb : a.preset.onBoundary a.t = true := by
        rw [ht]; exact onBound_total _ (by omega)
      have hp' : s.moves.pending = some p := hp
      simp [Moves.splices, ha, Moves.pendingDue, hp', hdue, hb, hfin]

theorem State.mapActive_safe {s : State} (h : s.moves.safe) (hp : s.moves.playingPair) {f : Context → Context}
    (hf : ∀ c, c.fits → (f c).fits) (hph : ∀ c, c.phase.playing = true → (f c).phase.playing = true) :
    (s.mapActive f).moves.safe ∧ (s.mapActive f).moves.playingPair := by
  refine ⟨⟨?_, h.2.1, ?_⟩, ?_⟩
  · intro x hx
    simp only [State.mapActive_moves, Option.mem_def, Option.map_eq_some_iff] at hx
    obtain ⟨c, hc, rfl⟩ := hx
    exact hf c (h.1 c hc)
  · intro p hpm
    obtain ⟨a, ha, hpl⟩ := hp p hpm
    have ha' : s.moves.active = some a := ha
    exact ⟨(h.2.2 p hpm).1, f a, by simp [ha'], .inl (hph a hpl)⟩
  · intro p hpm
    obtain ⟨a, ha, hpl⟩ := hp p hpm
    have ha' : s.moves.active = some a := ha
    exact ⟨f a, by simp [ha'], hph a hpl⟩

theorem Context.gapPart_playing {c : Context} (h : c.phase.playing = true) : c.gapPart.phase.playing = true := by
  unfold Context.gapPart; split
  · exact h
  · split
    · dsimp only; split
      · rfl
      · exact h
    · exact h

theorem Context.ratePart_playing {c : Context} (h : c.phase.playing = true) : c.ratePart.phase.playing = true := by
  unfold Context.ratePart; split
  · dsimp only; split <;> rfl
  · dsimp only; split <;> rfl
  all_goals exact h

theorem State.levelPart_safe {s : State} (h : s.moves.safe) (hp : s.moves.playingPair) :
    s.levelPart.moves.safe ∧ s.levelPart.moves.playingPair := by
  unfold State.levelPart; split
  · exact ⟨h, hp⟩
  · rename_i c hc
    dsimp only
    generalize levelFactor c.t (s.estimates c) = l
    have h1 : (s.putContext .active (some { c with lam := l })).moves.safe := by
      refine Moves.safe_put_active h (Context.fits_of_same (h.1 c hc) rfl rfl rfl rfl rfl rfl id) ?_
      intro p hpm
      obtain ⟨a, ha, hpl⟩ := hp p hpm
      rw [hc] at ha; cases ha
      exact .inl hpl
    split
    · refine ⟨State.abandonActive_safe h1 _, ?_⟩
      intro p hpm
      exfalso
      have hnone : ((s.putContext .active (some { c with lam := l })).abandonActive .drift).moves.pending = none := by
        unfold State.abandonActive
        simp only [State.putContext_moves, Moves.put]
        split
        · rename_i hr
          exact h1.alone (a := { c with lam := l }) rfl (by rw [hr]; rfl) (by rw [hr]; decide)
        · split
          · exact (State.abandonPending_moves _ _).1
          · exact (State.abandonPending_moves _ _).1
      simp only [State.handCancel_moves] at hpm
      rw [hnone] at hpm
      cases hpm
    · refine ⟨h1, ?_⟩
      intro p hpm
      obtain ⟨a, ha, hpl⟩ := hp p hpm
      rw [hc] at ha; cases ha
      exact ⟨_, rfl, hpl⟩

theorem Context.moved_phase (c : Context) (b : Bool) :
    (c.moved b).phase = .finished ∨ (c.moved b).phase = c.phase := by
  unfold Context.moved; dsimp only; split
  · exact .inl rfl
  · exact .inr rfl

/-- After the advance the places are safe, and a context that had finished before it stands alone. -/
theorem State.advancePart_safe {s : State} (h : s.moves.safe) (hp : s.moves.playingPair) :
    s.advancePart.1.moves.safe ∧
    (s.moves.active.any (·.phase == .finished) = true → s.advancePart.1.moves.pending = none) := by
  have hfin : ∀ a, s.moves.active = some a → a.phase = .finished → s.moves.pending = none := by
    intro a ha hf
    cases hq : s.moves.pending with
    | none => rfl
    | some q =>
      obtain ⟨b, hb, hpl⟩ := hp q hq
      rw [ha] at hb; cases hb
      rw [hf] at hpl; cases hpl
  unfold State.advancePart
  split
  · rename_i hn
    exact ⟨h, by simp [hn]⟩
  · rename_i c hc
    split
    · rename_i hadv
      dsimp only
      have hfits := Context.fits_moved (h.1 c hc) hadv s.moves.pendingDue
      have hplay : c.phase.playing = true := by
        revert hadv; cases c.phase <;> simp [Phase.advances, Phase.playing]
      constructor
      · cases hq : s.moves.pending with
        | none =>
          rcases State.lapseIfStranded_moves (s.putContext .active (some (c.moved s.moves.pendingDue))) with e | e <;>
            rw [e]
          · refine Moves.safe_alone hq ?_
            intro x hx
            simp only [State.putContext_moves, Moves.put, Option.mem_some_iff] at hx
            subst hx; exact hfits
          · refine Moves.safe_alone rfl ?_
            intro x hx
            simp only [State.putContext_moves, Moves.put, Option.mem_some_iff] at hx
            subst hx; exact hfits
        | some q =>
          by_cases hok : (c.moved s.moves.pendingDue).phase.playing = true ∨
              ((c.moved s.moves.pendingDue).phase = .finished ∧ q.due = true)
          · have hs : (s.putContext .active (some (c.moved s.moves.pendingDue))).moves.safe := by
              refine Moves.safe_put_active h hfits ?_
              intro p hpm
              rw [hq] at hpm; cases hpm
              exact hok
            rcases State.lapseIfStranded_moves (s.putContext .active (some (c.moved s.moves.pendingDue))) with e | e <;>
              rw [e]
            · exact hs
            · exact Moves.safe_put_none hs .pending (fun x => by cases x)
          · have hf : (c.moved s.moves.pendingDue).phase = .finished ∧ q.due = false := by
              rcases c.moved_phase s.moves.pendingDue with e | e
              · refine ⟨e, ?_⟩
                cases hd : q.due
                · rfl
                · exact absurd (.inr ⟨e, hd⟩) hok
              · exact absurd (.inl (by rw [e]; exact hplay)) hok
            have e : (s.putContext .active (some (c.moved s.moves.pendingDue))).lapseIfStranded =
                (s.putContext .active (some (c.moved s.moves.pendingDue))).discard .pending := by
              simp [State.lapseIfStranded, Moves.put, hq, hf.1, hf.2, State.lapse]
            rw [e, State.discard_moves]
            refine Moves.safe_alone rfl ?_
            intro x hx
            simp only [State.putContext_moves, Moves.put, Option.mem_some_iff] at hx
            subst hx; exact hfits
      · intro hany
        exfalso
        simp only [hc, Option.any_some, beq_iff_eq] at hany
        rw [hany] at hplay; cases hplay
    · refine ⟨h, ?_⟩
      intro hany
      simp only [hc, Option.any_some, beq_iff_eq] at hany
      exact hfin c hc hany

theorem Context.weightPart_phase (c : Context) : c.weightPart.phase = c.phase := by
  unfold Context.weightPart; split <;> rfl

theorem State.weightAndRelease_safe {s : State} (h : s.moves.safe) {fin : Bool}
    (hp : fin = true → s.moves.pending = none) : (s.weightAndRelease fin).moves.safe := by
  unfold State.weightAndRelease; split
  · exact h
  · rename_i c hc
    dsimp only
    have hfit : (if fin = true then c.dwellPart else c).weightPart.fits := by
      apply Context.fits_weightPart
      split
      · exact Context.fits_dwellPart (h.1 c hc)
      · exact h.1 c hc
    have hph : fin = false → (if fin = true then c.dwellPart else c).weightPart.phase = c.phase := by
      intro hf; simp [hf, Context.weightPart_phase]
    generalize (if fin = true then c.dwellPart else c).weightPart = d at hfit hph
    have hs : (s.putContext .active (some d)).moves.safe := by
      refine Moves.safe_put_active h hfit ?_
      intro p hpm
      cases hf : fin with
      | true => rw [hp hf] at hpm; cases hpm
      | false =>
        obtain ⟨-, a, ha, hcase⟩ := h.beside hpm
        rw [hc] at ha; cases ha
        rw [hph hf]; exact hcase
    split
    · rename_i hrel
      rw [State.discard_moves]
      exact Moves.safe_put_none hs .active
        (fun _ => hs.alone (a := d) rfl (by rw [hrel.1]; rfl) (by rw [hrel.1]; decide))
    · exact hs

theorem State.giveHandOver_safe {s : State} (h : s.moves.safe) (vp : Int) :
    (s.giveHandOver vp).moves.safe ∧ (s.giveHandOver vp).moves.handOver.fits := by
  refine ⟨Moves.safe_congr h rfl rfl, ?_⟩
  simp only [State.giveHandOver_moves, handOverOf]
  split
  · simp [HandOver.fits, HandOver.zero]
  · rename_i c hc
    have hf := h.1 c hc
    split
    · exact ⟨hf.2.1, Preset.sTrim_le hf.1⟩
    · exact ⟨Nat.zero_le _, Preset.sTrim_le hf.1⟩

theorem State.playbackStep_safe {s : State} (h : s.moves.safe) :
    s.playbackStep.moves.safe ∧ s.playbackStep.moves.handOver.fits := by
  unfold State.playbackStep; split
  · dsimp only
    obtain ⟨h1, p1⟩ := State.splicePart_safe h
    obtain ⟨h2, p2⟩ := State.mapActive_safe h1 p1 (f := Context.gapPart) (fun _ => Context.fits_gapPart)
      (fun _ => Context.gapPart_playing)
    obtain ⟨h3, p3⟩ := State.mapActive_safe h2 p2 (f := Context.ratePart) (fun _ => Context.fits_ratePart)
      (fun _ => Context.ratePart_playing)
    obtain ⟨h4, p4⟩ := State.levelPart_safe h3 p3
    obtain ⟨h5, p5⟩ := State.advancePart_safe h4 p4
    exact State.giveHandOver_safe (State.weightAndRelease_safe h5 p5) _
  · exact State.giveHandOver_safe h 0

/-- The move engine's reaction to an expiry keeps its invariant, and makes its hand-over within its ranges. -/
theorem State.moveReaction_safe {s : State} (h : s.moves.safe) : MovesSafe s.moveReaction :=
  (movesSafe_iff _).mpr (State.playbackStep_safe (State.countdowns_safe h))

end Sys2Proof.Machine
end

