-- ==== Sys2Proof/Laws/Playback.lean ====
section
/-! SUPPORT. What the playback step does to a lone ACTIVE context, said once. -/

namespace Sys2Proof.Machine

/-- The ACTIVE place replaced. -/
def State.withActive (s : State) (x : Option Context) : State := { s with moves := { s.moves with active := x } }

@[simp] theorem State.withActive_active (s : State) (x : Option Context) : (s.withActive x).moves.active = x := rfl
@[simp] theorem State.withActive_pending (s : State) (x : Option Context) :
    (s.withActive x).moves.pending = s.moves.pending := rfl
@[simp] theorem State.withActive_twice (s : State) (x y : Option Context) :
    (s.withActive x).withActive y = s.withActive y := rfl
theorem State.putContext_active (s : State) (x : Option Context) : s.putContext .active x = s.withActive x := rfl
theorem State.mapActive_eq (s : State) (f : Context → Context) :
    s.mapActive f = s.withActive (s.moves.active.map f) := rfl

theorem State.countPlace_pending_empty {s : State} (h : s.moves.pending = none) : s.countPlace .pending = s := by
  simp [State.countPlace, Moves.at, h]

theorem State.splicePart_alone {s : State} (h : s.moves.pending = none) : s.splicePart = s := by
  have : s.moves.splices = false := by unfold Moves.splices; split <;> simp [Moves.pendingDue, h]
  simp [State.splicePart, this]

theorem State.lapseIfStranded_alone {s : State} (h : s.moves.pending = none) : s.lapseIfStranded = s := by
  unfold State.lapseIfStranded; split <;> simp_all

/-- The estimates read the peer table and the station alone. -/
theorem State.estimates_withActive (s : State) (x : Option Context) (c : Context) :
    (s.withActive x).estimates c = s.estimates c := rfl

theorem State.discard_releasing {s : State} {c : Context} (ha : s.moves.active = some c) (h : c.phase ≠ .gather) :
    s.discard .active = s.withActive none := by
  simp [State.discard, Moves.at, ha, Moves.put, joinWithdrawn, h, State.withActive]

/-- Part 4 on a context whose timelines have not drifted apart. -/
theorem State.levelPart_near {s : State} {c : Context} (ha : s.moves.active = some c)
    (hd : drifted c.t (s.estimates c) = false) :
    s.levelPart = s.withActive (some { c with lam := levelFactor c.t (s.estimates c) }) := by
  simp only [State.levelPart, ha, hd, State.putContext_active]
  rfl

/-- Part 5 on a lone context. -/
theorem State.advancePart_alone {s : State} {c : Context} (ha : s.moves.active = some c) (hp : s.moves.pending = none) :
    s.advancePart = if Phase.advances c.phase then (s.withActive (some (c.moved false)), c.stepContribution false)
      else (s, 0) := by
  have hd : s.moves.pendingDue = false := by simp [Moves.pendingDue, hp]
  simp only [State.advancePart, ha, hd, State.putContext_active]
  split
  · rw [State.lapseIfStranded_alone (by simp [hp])]
  · rfl

/-- Parts 6 and 7 on the context they find. -/
theorem State.weightAndRelease_eq {s : State} {c : Context} (ha : s.moves.active = some c) (fin : Bool) :
    s.weightAndRelease fin =
      let d := (if fin then c.dwellPart else c).weightPart
      s.withActive (if d.phase = .releasing ∧ d.w = 0 then none else some d) := by
  simp only [State.weightAndRelease, ha, State.putContext_active]
  generalize (if fin = true then c.dwellPart else c).weightPart = d
  by_cases h : d.phase = .releasing ∧ d.w = 0
  · rw [if_pos h, if_pos h, State.discard_releasing (c := d) rfl (by simp [h.1])]
    rfl
  · rw [if_neg h, if_neg h]

/-- The context after parts 5 to 7 of a step, none when its fade-out has ended. -/
def Context.stepped (c : Context) : Option Context :=
  let g := if Phase.advances c.phase then c.moved false else c
  let d := (if c.phase == .finished then g.dwellPart else g).weightPart
  if d.phase = .releasing ∧ d.w = 0 then none else some d

/-- The playback step of a fired context that stands alone and has not drifted (R92). -/
theorem State.playbackStep_alone {s : State} {c e f : Context} (ha : s.moves.active = some c)
    (hp : s.moves.pending = none) (hf : c.phase.fired = true) (he : c.gapPart.ratePart = e)
    (hd : drifted e.t (s.estimates e) = false) (hl : { e with lam := levelFactor e.t (s.estimates e) } = f) :
    s.playbackStep = (s.withActive f.stepped).giveHandOver
      (if Phase.advances f.phase then f.stepContribution false else 0) := by
  have h1 : ((s.splicePart.mapActive Context.gapPart).mapActive Context.ratePart).levelPart = s.withActive (some f) := by
    rw [State.splicePart_alone hp, State.mapActive_eq, State.mapActive_eq]
    simp only [ha, Option.map_some, State.withActive_active, State.withActive_twice, he]
    rw [State.levelPart_near (c := e) rfl (by rw [State.estimates_withActive]; exact hd), State.estimates_withActive, hl]
    rfl
  simp only [State.playbackStep, ha, Option.any_some, hf, if_true, h1]
  rw [State.advancePart_alone (c := f) rfl (by simp [hp])]
  simp only [State.withActive_active, Option.any_some]
  by_cases hv : Phase.advances f.phase
  · rw [if_pos hv, if_pos hv, State.weightAndRelease_eq (c := f.moved false) rfl]
    simp only [State.withActive_twice, Context.stepped, hv, if_true]
  · simp only [hv]
    rw [if_neg (by simp), State.weightAndRelease_eq (c := f) rfl]
    simp [State.withActive_twice, Context.stepped, hv]

end Sys2Proof.Machine
end

