-- ==== Sys2Proof/Tests/Slice0.lean ====
section
/-! SUPPORT. Small tests whose expected values come from the spec's worked figures, the well-formedness smoke, and for
every obligation with hypotheses a theorem that shows them met, clause by clause. -/

namespace Sys2Proof.Tests

open Sys2Proof.Machine

/-! ## Small states -/

/-- The profile of the TILT node at station 4 (13_a_take_worked_through.md), its other values chosen within R176. -/
def prof : Profile := { blankProfile with
  role := .tilt, pMin := -100000, pMax := 100000, vAxisMax := 262143, vs := 40000, vApproach := 3000, aLow := 300
  aHigh := 1200, aStop := 2400, deadband := 47, stickSource := some 7, followSource := some 2, rf := -256
  startTol := 1000, feLimit := 100, brakeTimeout := 100, polarity := ⟨true, true, true, true, true⟩ }

/-- Preset A of chapter 13. -/
def presetA : Preset :=
  { keys := [⟨0, none⟩, ⟨100, some ⟨600, .smooth⟩⟩, ⟨0, some ⟨400, .smooth⟩⟩], fIn := 50, fOut := 25, dwell := 0
    sTrim := 64, autoRelease := false, protect := false }

/-- A preset of one segment of one period. -/
def short : Preset :=
  { keys := [⟨0, none⟩, ⟨512, some ⟨1, .linear⟩⟩], fIn := 0, fOut := 2, dwell := 3, sTrim := 0, autoRelease := true
    protect := true }

/-- Station 4 in a node state, its start done; slot 5 holds preset A, slot 6 a protected preset, slot 7 is EMPTY. -/
def node (n : NodeState) : State :=
  let s := State.atStart 4 (Vector.replicate 48 .blank) []
  { s with
    start := { s.start with status := .good, profile := prof }
    axis := { s.axis with nodeState := n, brakeReleased := n.brakeReleased, driveEnable := n.driveEnable }
    drive := { s.drive with actual := some 0, exchange := some ⟨7, 0, 0, true, false, .awaiting⟩ }
    store := { s.store with
      op := .idle, slots := ((s.store.slots.set 5 (.held presetA)).set 6 (.held short)).set 7 .empty } }

/-- Station 4 in NS_ACTIVE. -/
def base : State := node .active

/-- A context for move 42 over preset A with the set {1, 2, 3, 4}, in a phase, fired or not. -/
def ctx (ph : Phase) : Context :=
  { newJoint 0 42 5 presetA .queued with
    phase := ph, parts := 0b11110, r := 256, lam := 256, w := 256 }

/-- `base` with an ACTIVE context. -/
def playing (c : Context) : State := { base with moves := { base.moves with active := some c, nextSerial := 2 } }

/-- `playing` with a PENDING context beside it. -/
def paired (c p : Context) : State := { playing c with moves := { (playing c).moves with pending := some p } }

/-- A peer entry of an age that shows move 42 running at a timeline. -/
def entry (age t : Nat) : PeerEntry :=
  { setpoint := 0, velocity := 0, report := some (.move 42 .running), parts := some 0b11110, timeline := some t
    age := age }

/-- The four participants' entries. -/
def withPeers (s : State) (e1 e2 e3 e4 : PeerEntry) : State :=
  { s with peers := { s.peers with entries :=
    (((s.peers.entries.set 1 (some e1)).set 2 (some e2)).set 3 (some e3)).set 4 (some e4) } }

/-- All four fresh, the third at the last fresh age. -/
def fresh (s : State) : State := withPeers s (entry 0 0) (entry 0 0) (entry 8 0) (entry 0 0)

/-- The third stale. -/
def lost (s : State) : State := withPeers s (entry 0 0) (entry 0 0) (entry 9 0) (entry 0 0)

/-- A store operation in place. -/
def storing (s : State) (op : StoreOp) : State := { s with store := { s.store with op := op } }

/-- A frame from a station, heard and not the node's own. -/
def from_ (n : Station) : Rx := ⟨n, false⟩

/-- The node's own transmission that comes back. -/
def echoRx : Rx := ⟨4, true⟩

/-- The state with the last departed frame. -/
def departed (s : State) (f : Frame) : State := { s with link := { s.link with departed := some f } }

/-- A console's SERVICE frame for this station. -/
def svc (tag : Byte) : SvcHead := ⟨from_ 7, tag, 4⟩

/-- The state a command leads to. -/
def after (c : Instr) (s : State) : State :=
  match exec c s with
  | .next t => t
  | .fault _ => s
  | .refused _ => s

/-- Every line at its high level. -/
def high : Lines Bool := ⟨true, true, true, true, true⟩

/-- Lines with one active sample taken, no status active. -/
def sampledOnce (s : State) : State :=
  { s with drive := { s.drive with lines :=
    { estop := ⟨some true, false⟩, limitPos := .reset, limitNeg := .reset, driveFault := .reset, brakeFb := .reset } } }

/-- The same for DRIVE_FAULT. -/
def faultSampled (s : State) : State :=
  { s with drive := { s.drive with lines :=
    { estop := .reset, limitPos := .reset, limitNeg := .reset, driveFault := ⟨some true, false⟩, brakeFb := .reset } } }

def input : ExpiryInput := ⟨⟨false, false, false, false, false⟩, Block.all, false⟩

def report : StateReport :=
  { role := .lift, nodeState := .active, cause := .none, setpoint := 500, velocity := 4000, ownPos := -3
    report := some (.move 42 .gather), parts := some 0, timeline := none, surgeGranted := false, stickLost := true
    owed := 9, lastResult := some (17, .ok) }

/-- A profile image of a role, with P_min, A_low, follow source, extension source and mask given, and its check. -/
def imageWith (role : Byte) (pMin : BitVec 32) (aLow : BitVec 16) (follow ext mask : Byte) : List Byte :=
  let bs := [role] ++ bytes32 pMin ++ bytes32 100000 ++ bytes32 0 ++ bytes32 1 ++ bytes16 200 ++ bytes32 262143 ++
    bytes32 40000 ++ bytes32 3000 ++ bytes16 aLow ++ bytes16 1200 ++ bytes16 2400 ++ [47, 0, 7, follow] ++
    bytes16 0xFF00 ++ [ext] ++ bytes16 1000 ++ bytes16 100 ++ bytes16 100 ++ [31, mask]
  bs ++ bytes32 (crc32 bs)

/-- An image of a LIFT node that is accepted at station 4. -/
def goodImage : List Byte := imageWith 1 0xFFFE7960 300 2 1 0

/-- An image whose role byte names no role. -/
def badRole : List Byte := imageWith 6 0xFFFE7960 300 2 1 0

/-! ## Well-formedness: a term each check refuses -/

theorem test_order_named : (Instr.periodExpiry input).wellFormed = true := by decide
theorem test_order_short_refused :
    (Instr.periodExpiry { input with order := [.moves, .setpoint] }).wellFormed = false := by decide
theorem test_order_late_hand_over_refused :
    (Instr.periodExpiry { input with
      order := [.lines, .peers, .surge, .store, .axis, .setpoint, .moves] }).wellFormed = false := by decide
theorem test_order_late_hand_over_mended :
    schedule [.lines, .setpoint, .peers, .moves] = [.lines, .moves, .setpoint, .peers, .surge, .store, .axis] := by
  decide
theorem test_arm_no_target_refused : (Instr.arm (from_ 7) 17 42 5 0 false).wellFormed = false := by decide
theorem test_stick_no_channel_refused : (Instr.stick (from_ 7) true []).wellFormed = false := by decide
theorem test_stick_seven_channels_refused :
    (Instr.stick (from_ 7) true (List.replicate 7 ⟨.tilt, 0⟩)).wellFormed = false := by decide
theorem test_state_owed_ten_refused : (Instr.stateArrival (from_ 2) { report with owed := 10 }).wellFormed = false := by
  decide
theorem test_state_setpoint_refused :
    (Instr.stateArrival (from_ 2) { report with setpoint := 4000001 }).wellFormed = false := by decide
theorem test_state_set_without_move_refused :
    (Instr.stateArrival (from_ 2) { report with report := none }).wellFormed = false := by decide
theorem test_descriptor_page_refused : (Instr.descriptorArrival (from_ 2) 4 []).wellFormed = false := by decide
theorem test_descriptor_length_refused :
    (Instr.descriptorArrival (from_ 2) 0 (List.replicate 8 0)).wellFormed = false := by decide

/-! ## Encodings (12_formats.md) -/

/-- The check values of the two CRCs over the nine digits 1 to 9, which name their parameters. -/
theorem test_crc16_digits : crc16 [0x31, 0x32, 0x33, 0x34, 0x35, 0x36, 0x37, 0x38, 0x39] = 0x29B1 := by decide +kernel
theorem test_crc32_digits : crc32 [0x31, 0x32, 0x33, 0x34, 0x35, 0x36, 0x37, 0x38, 0x39] = 0xCBF43926 := by
  decide +kernel

/-- A HALT of the console at station 7: class 0, kind 0, one payload byte (12.1). -/
theorem test_halt_bytes : (Frame.halt .console).body 7 = [0x07, 0, 1, 1] := by decide
/-- The GO of chapter 13: class 2, kind 4, tag 18, move 42, lead 100. -/
theorem test_go_bytes : (Frame.go 18 42 100).body 7 = [0x27, 4, 3, 18, 42, 100] := by decide
/-- The RESUME of chapter 13, tagged. -/
theorem test_resume_bytes : (Frame.resume (some 20) 42).body 7 = [0x27, 6, 3, 1, 20, 42] := by decide
/-- An untagged HOLD of station 4. -/
theorem test_hold_bytes : (Frame.hold none 42).body 4 = [0x24, 5, 3, 0, 0, 42] := by decide
theorem test_go_received :
    receiveCommand false 0 ([0x27, 4, 3, 18, 42, 100] ++ bytes16 (crc16 [0x27, 4, 3, 18, 42, 100])) =
      some (.go (from_ 7) 18 42 100) := by decide +kernel
theorem test_bad_check_discarded : receiveCommand false 0 [0x27, 4, 3, 18, 42, 100, 0, 0] = none := by decide +kernel
theorem test_wrong_class_discarded :
    receiveFrame ([0x17, 4, 3, 18, 42, 100] ++ bytes16 (crc16 [0x17, 4, 3, 18, 42, 100])) = none := by decide +kernel
theorem test_state_received : receiveFrame ((Frame.state report).bytes 2) = some (2, .state report) := by decide +kernel
theorem test_stick_received :
    receiveFrame ((Frame.stick true [⟨.pan, 0xFF85⟩, ⟨.tilt, 147⟩]).bytes 7) =
      some (7, .stick true [⟨.pan, 0xFF85⟩, ⟨.tilt, 147⟩]) := by decide +kernel
theorem test_commit_received :
    receiveFrame ((Frame.service 9 4 (.commit 47 true false 50 25 100 64)).bytes 7) =
      some (7, .service 9 4 (.commit 47 true false 50 25 100 64)) := by decide +kernel
theorem test_record_read : checkedRecord presetA.checkedBytes = some presetA := by decide +kernel
theorem test_record_check_failed : checkedRecord (presetA.bytes ++ [0, 0, 0, 0]) = none := by decide +kernel
theorem test_profile_short_unreadable : judgeProfile (List.replicate 55 0) 4 = (.unreadable, none) := by decide +kernel
theorem test_profile_blank : judgeProfile (List.replicate 56 0xFF) 4 = (.blank, none) := by decide +kernel
theorem test_profile_check_failed : judgeProfile (List.replicate 56 0) 4 = (.checkFailed, none) := by decide +kernel

/-! ## The arithmetic of the blocks, from the worked figures -/

/-- Chapter 13.3: live trim at full weight. -/
theorem test_blend_live_trim : weightedBlend 2000 ⟨256, 64, 1000⟩ = 1500 := by decide
theorem test_stick_demand : shapedDemand prof 147 = 2000 ∧ shapedDemand prof (-147) = -2000 ∧ shapedDemand prof 47 = 0 :=
  by decide
/-- Chapter 13.2: the limiter cuts the follow to A_low a period, and a reversal stops at 0 or goes by A_inc. -/
theorem test_accelerate : accelerate (-1200) 0 300 1200 = -300 ∧ accelerate (-2400) (-300) 300 1200 = -600 ∧
    accelerate 5000 (-1300) 300 1200 = -100 ∧ accelerate 5000 (-1200) 300 1200 = 300 := by decide
/-- Section 2.3: the tip limit at three extensions. -/
theorem test_tip_limit : tipLimit { prof with tTip := 200, r0 := 150000 } 600000 = 3911 ∧
    tipLimit { prof with tTip := 200, r0 := 150000 } 0 = 19556 ∧
    tipLimit { prof with tTip := 200, r0 := 150000 } 1200000 = 2172 := by decide
/-- Section 2.7: the bound of the braking envelope at 20,480,000 FU with A_low 300. -/
theorem test_envelope_bound : envelopeBound 300 20480000 = 110851 := by decide
theorem test_guard : integrated prof 25599900 300 = 25600000 ∧ integrated prof 25600100 5 = 25600100 ∧
    integrated prof 25600100 (-5) = 25600095 := by decide
/-- Chapter 13.7: the stopping ramp from -2,500 with A_stop 2,400. -/
theorem test_stop_ramp : stopRamp 2400 (-2500) = -100 ∧ stopRamp 2400 (-100) = 0 := by decide
theorem test_isqrt : isqrt 0 = 0 ∧ isqrt 99 = 9 ∧ isqrt 100 = 10 := by decide
/-- A SMOOTH segment is half done at its middle, and ends on its change. -/
theorem test_offset_worked : Preset.offset { short with keys := [⟨2560000, none⟩, ⟨10240000, some ⟨1000, .smooth⟩⟩] } 0 64000
      = 1200000 ∧
    Preset.offset { short with keys := [⟨2560000, none⟩, ⟨10240000, some ⟨1000, .smooth⟩⟩] } 0 64256 = 1208554 := by decide
theorem test_offset : presetA.offset 0 76800 = 50 ∧ presetA.offset 0 153600 = 100 ∧ presetA.segIndex 153600 = 1 ∧
    presetA.total = 256000 := by decide
/-- Chapter 13.7: the fade-out weights of counts 1 and 8. -/
theorem test_fade_out : fadeOutWeight 25 256 1 = 245 ∧ fadeOutWeight 25 256 8 = 174 ∧ fadeInWeight 50 0 1 = 5 := by
  decide

/-! ## Commands, one step each -/

/-- Chapter 13.1: the ARM of move 42. -/
theorem test_arm_gathers : (after (.arm (from_ 7) 17 42 5 0b11110 false) base).moves.active.map
      (fun c => (c.moveId, c.phase, c.parts, c.gatherCd, c.ownJoin)) = some (42, .gather, 0, 25, some .queued) ∧
    (after (.arm (from_ 7) 17 42 5 0b11110 false) base).link.echo = some (17, .ok) := by decide
/-- Chapter 13.6: a splice beside a context that runs takes the PENDING place, and its preset needs no start (R74). -/
theorem test_arm_splices : (after (.arm (from_ 7) 21 43 5 0b11110 true) (playing (ctx .running))).moves.pending.map
      (·.moveId) = some 43 := by decide
theorem test_join_enters : (after (.join (from_ 3) 42) (playing { ctx .gather with parts := 0b110, gatherCd := 3 })).moves.active.map
      (fun c => (c.parts, c.gatherCd)) = some (0b1110, 25) := by decide
/-- Chapter 13.1: the gather expiry, and the GO. -/
theorem test_gather_expiry : (after .gatherExpiry (playing { ctx .gather with gatherCd := 1 })).moves.active.map
      (fun c => (c.phase, c.armedCd)) = some (.armed, 30000) := by decide
theorem test_go_posts : (after (.go (from_ 7) 18 42 100) (fresh (playing (ctx .armed)))).moves.active.map
      (fun c => (c.phase, c.postCd)) = some (.posted, 100) := by decide
theorem test_go_lead_clamped : (after (.go (from_ 7) 18 42 255) (fresh (playing (ctx .armed)))).moves.active.map
      (·.postCd) = some 250 := by decide
theorem test_arm_expiry : (after .armExpiry (playing { ctx .armed with armedCd := 1 })).moves.lastAbandon =
    some .armExpired := by decide
/-- Chapter 13.1: the fire at E141. -/
theorem test_move_fire : (after .moveFire (playing (ctx .posted))).moves.active.map (fun c => (c.phase, c.t, c.w)) =
    some (.running, 256, 5) := by decide
/-- Chapter 13.4: the hold ramp, and its last step. -/
theorem test_hold : (after (.hold (from_ 1) none 42) (playing (ctx .running))).moves.active.map (·.phase) =
    some .holding := by decide
theorem test_hold_ramp_end : (after .holdRampEnd (playing { ctx .holding with r := 4, t := 76416 })).moves.active.map
      (fun c => (c.phase, c.r, c.t)) = some (.suspended, 0, 76416) := by decide
/-- Chapter 13.5: the RESUME, its refusal while place 3 is STALE, and the last step of its ramp. -/
theorem test_resume : (after (.resume (from_ 7) (some 20) 42) (fresh (playing (ctx .suspended)))).moves.active.map
      (fun c => (c.phase, c.gap)) = some (.resuming, 50) := by decide
theorem test_resume_peer_lost :
    (after (.resume (from_ 7) (some 20) 42) (lost (playing (ctx .suspended)))).link.echo = some (20, .peerLost) := by decide
theorem test_resume_ramp_end :
    (after .resumeRampEnd (playing { ctx .resuming with r := 252, t := 84480 })).moves.active.map
      (fun c => (c.phase, c.r, c.t)) = some (.running, 256, 84736) := by decide
theorem test_resume_gap_end :
    (after .resumeGapEnd (playing { ctx .resuming with r := 200, gap := 1, deferred := true })).moves.active.map
      (fun c => (c.phase, c.r)) = some (.holding, 196) := by decide
/-- Chapter 13.6: the boundary at 153,600 is reached and the splice is taken one expiry later. -/
theorem test_splice : (after (.periodExpiry input) (paired { ctx .running with t := 153600, k := 1 }
      { ctx .posted with moveId := 43, due := true, serial := 1 })).moves.active.map
      (fun c => (c.moveId, c.t, c.w)) = some (43, 256, 256) := by decide
theorem test_finish : (after .playbackFinish (playing { ctx .running with t := 255744, k := 1 })).moves.active.map
      (fun c => (c.phase, c.t)) = some (.finished, 256000) := by decide
/-- Chapter 13.7: the dwell's end takes the first fade-out step. -/
theorem test_dwell_end : (after .dwellEnd (playing { ctx .finished with t := 256000, k := 1, dwell := 1, releaseAtEnd := true })).moves.active.map
      (fun c => (c.phase, c.w)) = some (.releasing, 245) := by decide
theorem test_fade_out_end : (after .fadeOutEnd (playing { ctx .releasing with w0 := 256, fadeOut := 24 })).moves.active =
    none := by decide
theorem test_release : (after (.release (from_ 7) (some 1) 42) (playing (ctx .running))).moves.active.map
      (·.releaseAtEnd) = some true := by decide
theorem test_cancel : (after (.cancel (from_ 7) (some 1) 42) (playing (ctx .running))).moves.active.map
      (fun c => (c.phase, c.w0, c.w)) = some (.releasing, 256, 256) := by decide
/-- Chapter 13.2: the void loopback, and a granted one. -/
theorem test_surge_void : (after (.surge echoRx) (departed { base with surge :=
      ⟨[⟨5, 34⟩, ⟨1, 39⟩, ⟨2, 39⟩, ⟨3, 40⟩], .sent, 0⟩ } .surge)).surge =
    ⟨[⟨5, 34⟩, ⟨1, 39⟩, ⟨2, 39⟩, ⟨3, 40⟩], .none, 0⟩ := by decide
theorem test_surge_granted : (after (.surge echoRx) (departed { base with surge := ⟨[], .sent, 0⟩ } .surge)).surge =
    ⟨[⟨4, 40⟩], .granted, 25⟩ := by decide
theorem test_surge_entry_expiry : (after .surgeEntryExpiry { base with surge := ⟨[⟨5, 1⟩, ⟨1, 6⟩], .none, 0⟩ }).surge.window =
    [⟨1, 5⟩] := by decide
theorem test_grant_end : (after .grantEnd { base with surge := ⟨[], .granted, 1⟩ }).surge = ⟨[], .none, 0⟩ := by decide
/-- Chapter 13.4: the stale notice of place 3 holds the move and hands an untagged HOLD. -/
theorem test_peer_stale : (after .peerStale (fresh (playing (ctx .running)))).moves.active.map (·.phase) = some .holding ∧
    (after .peerStale (fresh (playing (ctx .running)))).link.cueLane = [plain (.hold none 42)] := by decide
theorem test_stick_stale : (after .stickStale { base with peers := { base.peers with stick := some ⟨true, 147, 8⟩ } }).stickLost =
    true := by decide
theorem test_stick : (after (.stick (from_ 7) true [⟨.pan, 5⟩, ⟨.tilt, 0x7FFF⟩, ⟨.tilt, 1⟩]) base).peers.stick =
    some ⟨true, 2047, 0⟩ := by decide
theorem test_state_entry : ((after (.stateArrival (from_ 2) report) base).entry 2).map (fun e => (e.velocity, e.age)) =
    some (4000, 0) := by decide
theorem test_state_clash : (after (.stateArrival (from_ 4) report) base).axis.cause = .stationClash ∧
    (after (.stateArrival (from_ 4) report) base).axis.nodeState = .stopped := by decide
theorem test_descriptor_arrival : after (.descriptorArrival (from_ 2) 3 (List.replicate 49 0)) base = base := by decide
/-- Chapter 13.7: the HALT discards the move. -/
theorem test_halt : (after (.halt (from_ 7) .console) (playing (ctx .running))).moves.lastAbandon = some .halted ∧
    (after (.halt (from_ 7) .console) { base with limiter := ⟨0, -2500, 0⟩ }).axis.nodeState = .stopping := by decide
theorem test_estop : (after (.estopActive high) (sampledOnce base)).axis.nodeState = .stopped ∧
    (after (.estopActive high) (sampledOnce base)).link.haltLane = [plain (.halt .estopLine)] := by decide
theorem test_drive_fault : (after (.driveFaultActive high) (faultSampled base)).axis.nodeState = .faulted ∧
    (after (.driveFaultActive high) (faultSampled base)).axis.cause = .driveFault := by decide
theorem test_period_expiry : (after (.periodExpiry input) base).drive.exchange.map (·.number) = some 8 ∧
    (after (.periodExpiry input) base).link.stateLane.length = 1 := by decide
theorem test_brake_timeout : (after .brakeTimeout { node .brakeRelease with
      axis := { (node .brakeRelease).axis with brakeCount := 99 } }).axis.cause = .brakeTimeout := by decide
theorem test_brake_settle_end : (after .brakeSettleEnd { node .brakeRelease with
      axis := { (node .brakeRelease).axis with releaseConfirmed := true, settleCount := 24 } }).axis.nodeState = .active := by decide
theorem test_drive_silent : (after .driveSilent { base with drive := { base.drive with silent := 2 } }).axis.cause =
    .driveSilent := by decide
theorem test_following_error : (after .followingError { base with drive := { base.drive with
      following := 2, exchange := some ⟨7, 25857, 0, true, false, .answered 0⟩ } }).axis.cause = .following := by decide
theorem test_link_starved : (after .linkStarved { base with link := { base.link with
      owed := 8, stateLane := [plain (.state report)] } }).axis.cause = .linkStarved := by decide
theorem test_power_on : exec (.powerOnReset 0 false) State.reset = .next State.reset := rfl
theorem test_reset_line : (after (.resetLine (.released 9 false)) (after (.resetLine (.held false)) base)).start.station = 9 :=
  by decide
theorem test_profile_decision : (after (.profileDecision []) State.reset).start.status = .unreadable := by decide
theorem test_slot_check_end : (after .slotCheckEnd State.reset).store.slots[47] = .empty := by decide
theorem test_starting_end : (after (.startingEnd (.profileDecision [])) (storing State.reset .idle)).axis.nodeState =
    .configFault := by decide
theorem test_drive_answer : (after (.driveAnswer 7 12 true) base).drive.exchange.map (·.outcome) = some (.answered 12) ∧
    (after (.driveAnswer 6 12 true) base).drive.actual = some 12 ∧ after (.driveAnswer 5 12 true) base = base := by decide
theorem test_store_completion : (after (.storeCompletion true)
      (storing base (.erasing ⟨.delete, 5, 1, 3⟩))).store.slots[5] = .empty := by decide
theorem test_store_time_limit : (after (.storeTimeLimit false)
      (storing base (.erasing ⟨.delete, 5, 1, 249⟩))).store.op = .locked := by decide
theorem test_line_idle : (after (.lineIdle [0x43]) { base with link := { base.link with
      stateLane := [plain (.state report)] } }).link.onLine = none ∧
    (after (.lineIdle [0x51]) { base with link := { base.link with
      stateLane := [plain (.state report)] } }).link.stateLane = [] := by decide
theorem test_frame_departure : (after .frameDeparture { base with link := { base.link with
      owed := 3, onLine := some ⟨.state, plain (.state report), false⟩ } }).link.owed = 0 := by decide
theorem test_frame_unacknowledged : (after .frameUnacknowledged { base with link := { base.link with
      cueLane := [plain (.join 2)], onLine := some ⟨.cue, plain (.join 1), false⟩ } }).link.cueLane =
    [plain (.join 1), plain (.join 2)] := by decide
theorem test_query : (after (.query (svc 3) 0) base).link.serviceLane =
    [plain (.descriptor 0 [0x0B, 0x6E, 0x26, 0x01, 1, 4, 0, 1, 0xFF])] := by decide
theorem test_capture : (after (.capture (svc 3) 0 .smooth) { base with store := { base.store with
      buffer := [⟨0, none⟩] } }).store.buffer = [⟨0, none⟩, ⟨0, some ⟨1, .smooth⟩⟩] := by decide
theorem test_undo : (after (.undo (svc 3)) { base with store := { base.store with buffer := [⟨0, none⟩] } }).store.buffer = [] :=
  by decide
theorem test_edit_clear : (after (.editClear (svc 3)) (storing base .locked)).link.echo = some (3, .ok) := by decide
theorem test_commit : (after (.commit (svc 3) 7 true false 501 25 500 257) { base with store := { base.store with
      buffer := presetA.keys } }).store.op = .writing ⟨.commit, 7, 3, 0⟩
        { keys := presetA.keys, fIn := 500, fOut := 25, dwell := 500, sTrim := 256, autoRelease := true, protect := false } := by
  decide
theorem test_delete : (after (.delete (svc 3) 6) base).link.echo = some (3, .slotProtected) ∧
    (after (.delete (svc 3) 5) base).store.slots[5] = .erasing := by decide
theorem test_unprotect : (after (.unprotect (svc 3) 6) (node .braked)).store.op =
    .writing ⟨.unprotect, 6, 3, 0⟩ { short with protect := false } := by decide
/-- Within one period of the start the approach lasts one period, longer ones the ceiling of 3|Δ|/(2V) (R112). -/
theorem test_goto_start : approachPeriods 2000 3000 = 1 ∧ approachPeriods (-2001) 3000 = 2 ∧
    (after (.gotoStart (svc 3) 5) base).moves.active.map (fun c => (c.moveId, c.phase)) = some (0, .posted) := by decide
theorem test_park : (after (.park (svc 3) .brake) base).axis.nodeState = .brakeEngage ∧
    (after (.park (svc 3) .hold) (playing (ctx .running))).link.echo = some (3, .notStill) := by decide
theorem test_unpark : (after (.unpark (svc 3)) (node .braked)).axis.nodeState = .brakeRelease := by decide
theorem test_clear : (after (.clear (svc 3)) (node .stopped)).axis.nodeState = .active ∧
    (after (.clear (svc 3)) base).link.echo = some (3, .refusedState) := by decide
theorem test_restart : (after (.restart (svc 3) 9) (node .faulted)).start.station = 9 ∧
    (after (.restart (svc 3) 9) base).link.echo = some (3, .refusedState) := by decide
theorem test_supersede_takes_back_the_join : (after (.arm (from_ 7) 17 42 5 0b11110 false) { playing (ctx .armed) with
    link := { base.link with cueLane := [⟨.join 42, some 0⟩] } }).link.cueLane = [⟨.join 42, some 2⟩] := by decide
theorem test_loopback_after_an_idle : (after (.surge echoRx) (after (.lineIdle []) (departed { base with surge :=
    ⟨[], .sent, 0⟩ } .surge))).surge.status = .granted := by decide
theorem test_descriptor_role_discarded : (Frame.descriptor 0 [0, 0, 0, 0, 1, 2, 7, 1, 0xFF]).within = false ∧
    (Frame.descriptor 0 [0, 0, 0, 0, 1, 2, 5, 1, 0xFF]).within = true ∧
    (Frame.descriptor 3 (List.replicate 47 0 ++ [6, 0])).within = false := by decide
theorem test_slot_check_background : (after (.slotCheckEnd) State.reset).store.op = .idle ∧
    State.reset.background.store.op = .checking 1 := by decide

/-! ## Witnesses: the hypotheses of the obligations are met, clause by clause -/

theorem witness_StepRunsFrontCommand :
    (base.pending = [] ∧ ∀ k, base.store.op ≠ .checking k) ∧
    (State.reset.pending = [] ∧ State.reset.store.op = .checking 0 ∧ State.reset.live = true) ∧
    ((46 : Nat) < 47 ∧ (storing State.reset (.checking 46)).store.op = .checking 46 ∧
      (storing State.reset (.checking 46)).live = true) := by
  refine ⟨⟨rfl, ?_⟩, by decide, by decide⟩
  intro k h; cases h

theorem witness_PowerOnGivesEveryBlockItsResetValues : base.start.resetHeld = false := by decide

theorem witness_ResetLineHoldsAndReleases :
    (after (.resetLine (.held false)) base).start.resetHeld = true ∧
    (∀ a b, Instr.gatherExpiry ≠ .powerOnReset a b) ∧ (∀ e, Instr.gatherExpiry ≠ .resetLine e) := by
  refine ⟨by decide, ?_, ?_⟩
  · intro a b h; cases h
  · intro e h; cases h

theorem witness_ProfileDecisionSetsTheProfile :
    (State.reset.live = true ∧ State.reset.start.status = .reading ∧ State.reset.store.op = .checking 0) ∧
    ((goodImage.take 55).length < 56 ∧ 56 ≤ goodImage.length) ∧
    (∀ b ∈ (List.replicate 56 (0xFF : Byte)).take 56, b = 0xFF) ∧
    (∃ b ∈ goodImage.take 56, b ≠ 0xFF) ∧
    (∃ b ∈ (List.replicate 56 (0 : Byte)).take 56, b ≠ 0xFF) ∧
    bytes32 (crc32 (((List.replicate 56 (0 : Byte)).take 56).take 52)) ≠ ((List.replicate 56 (0 : Byte)).take 56).drop 52 ∧
    bytes32 (crc32 ((goodImage.take 56).take 52)) = (goodImage.take 56).drop 52 ∧
    (rangeTests badRole = [] ++ (0, false) :: (rangeTests badRole).tail ∧ badRole.take 56 = badRole ∧
      bytes32 (crc32 (badRole.take 52)) = badRole.drop 52) ∧
    (∀ x ∈ rangeTests (goodImage.take 56), x.2 = true) := by
  decide +kernel

/-- Each judgement past the range tests, on an image that passes the checks before it. -/
theorem witness_judgements :
    (∀ img ∈ [imageWith 1 0xFFFE7960 1200 2 1 0, imageWith 1 100000 300 2 1 0, imageWith 1 0xFFFE7960 300 4 1 0,
        imageWith 1 0xFFFE7960 300 2 4 0, imageWith 1 0xFFFE7960 300 2 1 1, goodImage],
      img.take 56 = img ∧ bytes32 (crc32 (img.take 52)) = img.drop 52 ∧ ∀ x ∈ rangeTests img, x.2 = true) ∧
    judgeProfile (imageWith 1 0xFFFE7960 1201 2 1 0) 4 = (.accelOrder, none) ∧
    judgeProfile (imageWith 1 100000 300 2 1 0) 4 = (.limitOrder, none) ∧
    judgeProfile (imageWith 1 0xFFFE7960 300 4 4 0) 4 = (.ownSource, some 40) ∧
    judgeProfile (imageWith 1 0xFFFE7960 300 2 4 0) 4 = (.ownSource, some 43) ∧
    judgeProfile (imageWith 1 0xFFFE7960 300 2 1 1) 4 = (.estopMasked, none) ∧
    judgeProfile goodImage 4 = (.good, none) ∧ judgeProfile badRole 4 = (.outOfRange, some 0) := by
  decide +kernel

/-- The length of a record, which no byte beyond it and its check shares. -/
theorem keys_length (ks : List Keyframe) : (ks.flatMap Keyframe.bytes).length = 7 * ks.length := by
  induction ks with
  | nil => rfl
  | cons k ks ih =>
    obtain ⟨pos, m⟩ := k
    cases m <;> simp [ih, Keyframe.bytes, bytes32, bytes16] <;> omega

theorem witness_SlotCheckEndDecidesTheRest :
    (State.reset.live = true ∧ State.reset.store.op = .checking 0 ∧ State.reset.start.status = .reading) ∧
    presetA.wellFormed = true ∧ short.wellFormed = true ∧ ([0] : List Byte) ≠ [] ∧
    (∀ p : Preset, p.wellFormed = true → presetA.checkedBytes ++ [0] ≠ p.bytes ++ bytes32 (crc32 p.bytes)) ∧
    decidedSlot ⟨.complete, presetA.checkedBytes⟩ = .held presetA := by
  refine ⟨by decide, by decide, by decide, by decide, ?_, by decide +kernel⟩
  intro p _ h
  have := congrArg List.length h
  simp only [Preset.checkedBytes, Preset.bytes, List.length_append, keys_length, bytes32, bytes16, presetA,
    List.length_cons, List.length_nil] at this
  omega

theorem witness_StartingEndsByItsLastCondition :
    ((storing State.reset .idle).live = true ∧ (storing State.reset .idle).axis.nodeState = .starting ∧
      (storing State.reset .idle).start.status = .reading ∧ (storing State.reset .idle).store.op = .idle ∧
      (judgeProfile [] 0).1 ≠ .good ∧ (storing State.reset .idle).link.owed < 9) ∧
    (let s := after (.profileDecision []) State.reset;
      s.live = true ∧ s.axis.nodeState = .starting ∧ s.start.status = .unreadable ∧ s.store.op = .checking 0 ∧
        s.link.owed < 9) ∧
    (let s := after (.profileDecision []) State.reset;
      let t : State := { s with link := { s.link with owed := 9 }, axis := { s.axis with cause := .linkStarved } };
      t.live = true ∧ t.axis.nodeState = .starting ∧ t.start.status = .unreadable ∧ t.store.op = .checking 0 ∧
        t.link.owed = 9 ∧ t.axis.cause = .linkStarved) ∧
    (let s := storing (node .starting) (.checking 47);
      s.live = true ∧ s.axis.nodeState = .starting ∧ s.start.status = .good ∧ s.store.op = .checking 47 ∧
        s.drive.actual.isSome = true) ∧
    (let s := node .starting;
      s.live = true ∧ s.axis.nodeState = .starting ∧ s.start.status = .good ∧ s.store.op = .idle ∧
        s.drive.exchange = some ⟨7, 0, 0, true, false, .awaiting⟩ ∧ (6 : Byte) + 1 = 7) := by decide

theorem witness_DriveAnswerByNumberAndOutcome :
    (base.live = true ∧ base.axis.nodeState ≠ .starting ∧
      base.drive.exchange = some ⟨7, 0, 0, true, false, .awaiting⟩) ∧
    ({ base with drive := { base.drive with exchange := none } } : State).drive.exchange = none ∧
    ((6 : Byte) + 1 = 7 ∧ (255 : Byte) + 1 = 0 ∧ (8 : Byte) ≠ 7 ∧ (8 : Byte) + 1 ≠ 7) ∧
    ExchangeOutcome.notReady ≠ .awaiting ∧
    (let s := node .starting;
      s.live = true ∧ s.axis.nodeState = .starting ∧ s.start.accepted = true ∧ s.store.op = .idle) := by decide

theorem witness_EstopActivationHaltsAndSendsHalt :
    (let s := sampledOnce base;
      s.timerRuns = true ∧ (s.sampledLines high).estop.active = true ∧ s.drive.lines.estop.active = false ∧
        (s.sampledLines high).driveFault.active = false ∧ s.link.load .halt = 0 ∧ s.axis.nodeState = .active) ∧
    ({ base.link with haltLane := [plain (.halt .estopLine)] } : Link).load .halt = 1 ∧
    (let s := sampledOnce (node .brakeRelease);
      s.timerRuns = true ∧ (s.sampledLines high).estop.active = true ∧ s.drive.lines.estop.active = false ∧
        s.axis.nodeState = .brakeRelease ∧ s.limiter.vc = 0) ∧
    (sampledOnce (node .braked)).axis.nodeState = .braked := by decide

theorem witness_DriveFaultActivationFaultsTheNode :
    (let s := faultSampled base;
      s.timerRuns = true ∧ (s.sampledLines high).driveFault.active = true ∧ s.drive.lines.driveFault.active = false ∧
        (s.sampledLines high).estop.active = false ∧ s.axis.nodeState = .active ∧ s.axis.cause = .none) ∧
    (∀ n ∈ [NodeState.braked, .brakeRelease, .holdPark, .brakeEngage, .stopping, .stopped],
      (faultSampled (node n)).timerRuns = true ∧ n ≠ .starting ∧ n ≠ .configFault ∧ n ≠ .faulted) ∧
    (let s := (faultSampled base).setCause .linkStarved;
      s.timerRuns = true ∧ s.axis.cause = .linkStarved ∧ s.link.owed < 9) ∧
    ((faultSampled base).setCause .following).axis.cause = .following := by decide

theorem witness_PeriodExpiryReactsOncePerBlock :
    (base.timerRuns = true ∧ base.moves.none? = true ∧ base.start.accepted = true ∧
      base.start.profile.mask.estop = false) ∧
    (let s := storing base (.writing ⟨.commit, 5, 1, 248⟩ presetA);
      s.timerRuns = true ∧ s.store.op = .writing ⟨.commit, 5, 1, 248⟩ presetA) ∧
    (let s := storing base (.erasing ⟨.delete, 5, 1, 248⟩);
      s.timerRuns = true ∧ s.store.op = .erasing ⟨.delete, 5, 1, 248⟩) ∧
    (let s : State := { base with start := { base.start with
        profile := { prof with mask := ⟨false, true, false, false, false⟩ } } };
      s.timerRuns = true ∧ s.start.accepted = true ∧ s.start.profile.mask.limitPos = true) ∧
    ((after (.profileDecision []) State.reset).timerRuns = true ∧
      (after (.profileDecision []) State.reset).start.accepted = false) ∧
    ((node .braked).timerRuns = true ∧ (node .braked).axis.nodeState.tracks = true) := by decide

/-- The quiet expiry, clause by clause. -/
theorem witness_quiet_expiry :
    ((node .stopped).quiet input.levels ∧ (node .stopped).timerRuns = true) ∧
    (let s : State := { node .brakeRelease with axis := { (node .brakeRelease).axis with settleCount := 23 } };
      s.quiet input.levels ∧ s.timerRuns = true ∧ s.axis.nodeState = .brakeRelease ∧ s.axis.settleCount < 24) ∧
    (let c := { ctx .gather with gatherCd := 2 };
      (playing c).quiet input.levels ∧ (playing c).moves.active = some c ∧ (playing c).moves.pending = none ∧
        c.phase = .gather ∧ 2 ≤ c.gatherCd) ∧
    (let c := { ctx .gather with gatherCd := 1 };
      let u := after .gatherExpiry (playing c);
      (playing c).quiet input.levels ∧ (playing c).moves.active = some c ∧ (playing c).moves.pending = none ∧
        c.phase ∉ [Phase.posted, .running, .resuming] ∧ u ≠ playing c) := by decide

theorem witness_quiet_axis :
    (let s := after (.unpark (svc 3)) (node .holdPark);
      s.quiet input.levels ∧ s.axis.nodeState = .holdPark ∧ s.axis.unparkPending = true) ∧
    (let s : State := { node .brakeRelease with
        drive := { base.drive with lines := { base.drive.lines with brakeFb := ⟨some true, true⟩ } } };
      s.quiet { input.levels with brakeFb := true } ∧ s.axis.releaseConfirmed = false ∧
        s.drive.lines.brakeFb.active = true ∧
        (s.sampledLines { input.levels with brakeFb := true }).brakeFb.active = true) ∧
    (∀ n ∈ [NodeState.brakeRelease, .brakeEngage],
      (node n).quiet input.levels ∧ (node n).timerRuns = true ∧ (node n).axis.releaseConfirmed = false ∧
        (node n).drive.lines.brakeFb.active = false ∧ ((node n).sampledLines input.levels).brakeFb.active = false) ∧
    (let s : State := { node .brakeRelease with axis := { (node .brakeRelease).axis with
        releaseConfirmed := true, settleCount := 23 } };
      s.quiet input.levels ∧ s.axis.releaseConfirmed = true ∧ s.axis.settleCount < 24) := by decide

theorem witness_quiet_event : exec .gatherExpiry (playing { ctx .gather with gatherCd := 1 }) =
    .next (after .gatherExpiry (playing { ctx .gather with gatherCd := 1 })) := rfl

theorem witness_GatherAndArmedCountdownsEnd :
    (let c := { ctx .gather with gatherCd := 1 };
      (playing c).timerRuns = true ∧ (playing c).moves.active = some c ∧ (playing c).moves.pending = none ∧
        c.phase = .gather ∧ c.gatherCd = 1 ∧ c.parts.has (playing c).start.station = true) ∧
    (let c := { ctx .gather with gatherCd := 1, parts := 0b110, ownJoin := some .sent };
      c.parts.has (playing c).start.station = false ∧ c.ownJoin = some .sent ∧ (playing c).link.load .cue < 4) ∧
    (let c := { ctx .gather with gatherCd := 1, parts := 0b110 };
      c.parts.has (playing c).start.station = false ∧ c.ownJoin = some .queued) ∧
    (let c := { ctx .armed with armedCd := 1 };
      (playing c).moves.active = some c ∧ c.phase = .armed ∧ c.armedCd = 1) ∧
    (let a := ctx .suspended;
      let c := { ctx .gather with moveId := 43, serial := 1, gatherCd := 1, ownJoin := some .heard };
      (paired a c).timerRuns = true ∧ (paired a c).moves.active = some a ∧ (paired a c).moves.pending = some c ∧
        a.phase = .suspended ∧ a.gap = 0 ∧ c.phase = .gather ∧ c.gatherCd = 1 ∧
        c.parts.has (paired a c).start.station = true ∧ c.parts = a.parts) ∧
    (let c := { ctx .gather with gatherCd := 1, ownJoin := some .heard, parts := 0b10010 };
      c.parts ≠ (ctx .suspended).parts ∧ c.ownJoin ≠ some .queued ∧ c.parts.has base.start.station = true) := by decide

theorem witness_MoveFiresWithItsFirstStep :
    (let c := ctx .posted;
      (playing c).timerRuns = true ∧ (playing c).moves.active = some c ∧ (playing c).moves.pending = none ∧
        c.phase = .posted ∧ c.postCd = 0 ∧ c.due = false ∧ c.preset.wellFormed = true ∧
        drifted 0 ((playing c).estimates c.fire) = false ∧ c.preset.fIn ≠ 0 ∧ c.preset.total ≠ 256) ∧
    (let c := { ctx .posted with preset := short };
      c.preset.wellFormed = true ∧ c.preset.total = 256 ∧ c.preset.fIn = 0 ∧
        drifted 0 ((playing c).estimates c.fire) = false) ∧
    (let c := { ctx .posted with w := 0 };
      let s := withPeers (playing c) (entry 0 0) (entry 0 0) (entry 0 4097) (entry 0 0);
      s.moves.active = some c ∧ s.moves.pending = none ∧ c.preset.wellFormed = true ∧
        drifted 0 (s.estimates c.fire) = true ∧ c.w = 0 ∧ s.link.load .cue < 4) := by decide

/-- The splice of MOVE_FIRE, clause by clause. -/
theorem witness_splice :
    (let c := { ctx .posted with moveId := 43, serial := 1 };
      (∀ ph ∈ [Phase.running, .finished, .holding],
        let a := { ctx ph with t := 153600, k := 1 };
        (paired a c).timerRuns = true ∧ (paired a c).moves.active = some a ∧ (paired a c).moves.pending = some c ∧
          (1 ≤ 1 ∧ 1 < a.preset.keys.length ∧ a.t = a.preset.bound 1) ∧ a.gap = 0 ∧
          drifted 0 ((paired a c).estimates c.fire) = false) ∧
      c.phase = .posted ∧ c.postCd = 0 ∧ c.due = false ∧ c.preset.wellFormed = true ∧ 4 < (ctx .holding).r ∧
      (ctx .holding).r ≤ 256) ∧
    (let c := { ctx .posted with moveId := 43, serial := 1 };
      let a := { ctx .running with t := 153344 };
      (paired a c).estimates a = none ∧ a.gap = 0 ∧ a.r = 256 ∧ a.preset.wellFormed = true ∧
        a.k + 2 < a.preset.keys.length ∧ a.preset.bound a.k < a.t ∧ a.t < a.preset.bound (a.k + 1) ∧
        a.preset.bound (a.k + 1) ≤ a.t + 256) := by decide

theorem witness_HoldAndResumeRampsEnd :
    (let c := { ctx .holding with r := 4 };
      (playing c).timerRuns = true ∧ (playing c).moves.active = some c ∧ (playing c).moves.pending = none ∧ c.gap = 0 ∧
        c.phase = .holding ∧ c.r = 4) ∧
    (let c := { ctx .resuming with r := 252, t := 255743 };
      c.gap = 0 ∧ c.phase = .resuming ∧ c.r = 252 ∧ c.t + 256 < c.preset.total ∧
        drifted c.t ((playing c).estimates { c with r := 256, phase := .running }) = false) ∧
    (let c := { ctx .resuming with r := 5, gap := 1, deferred := true };
      c.phase = .resuming ∧ c.gap = 1 ∧ 4 < c.r ∧ c.r < 252 ∧ c.t + 256 < c.preset.total) ∧
    (let c := { ctx .resuming with r := 251, gap := 1 };
      4 < c.r ∧ c.r < 252 ∧ c.deferred = false) := by decide

/-- The timelines that the entries of `fresh` tell of: the third is eight periods old. -/
def told (n : Station) : Nat := if n = 3 then 2048 else 0

/-- The other participants of `ctx` show its move running in `fresh`. -/
theorem told_participants (c : Context) (n : Station) (h : StationSet.has 0b11110 n = true) (hn : n ≠ 4) :
    ∃ e, (fresh (playing c)).entry n = some e ∧ e.age ≤ 8 ∧ e.report = some (.move 42 .running) ∧
      ∃ x, e.timeline = some x ∧ told n = x + 256 * e.age := by
  have : n = 1 ∨ n = 2 ∨ n = 3 := by revert n; decide
  obtain rfl | rfl | rfl := this
  · exact ⟨entry 0 0, rfl, by decide, rfl, 0, rfl, rfl⟩
  · exact ⟨entry 0 0, rfl, by decide, rfl, 0, rfl, rfl⟩
  · exact ⟨entry 8 0, rfl, by decide, rfl, 0, rfl, rfl⟩

/-- Levelling and drift: at 256 the node keeps step, at 257 it levels, at 4096 still, at 4097 it has drifted. -/
theorem witness_levelling :
    (let c := { ctx .running with gap := 1, t := 4097 };
      (fresh (playing c)).timerRuns = true ∧ (fresh (playing c)).moves.active = some c ∧
        (fresh (playing c)).moves.pending = none ∧ c.phase = .running ∧ c.gap = 1 ∧ c.deferred = false ∧ c.r = 256 ∧
        c.kind = .joint ∧ c.moveId = 42 ∧ c.parts = 0b11110 ∧ c.w = 256 ∧ 2 ≤ c.preset.fOut ∧ c.preset.fOut ≤ 256 ∧
        (fresh (playing c)).link.load .cue < 4 ∧ (fresh (playing c)).start.station = 4 ∧ 4096 + 256 < c.preset.total) ∧
    (∀ n, told n ≤ 4096 + 4096 ∧ 4096 ≤ told n + 4096) ∧ (StationSet.has 0b11110 1 = true ∧ told 1 + 256 < 257) ∧
    (∀ n, 256 ≤ told n + 256) ∧ told 1 + 4096 < 4097 := by decide

theorem witness_PlaybackFinishesAtTheTotal :
    (let c := { ctx .running with t := 255999, k := 1 };
      (playing c).timerRuns = true ∧ (playing c).moves.active = some c ∧ (playing c).moves.pending = none ∧ c.gap = 0 ∧
        c.phase = .running ∧ c.r = 256 ∧ c.preset.wellFormed = true ∧ drifted c.t ((playing c).estimates c) = false ∧
        c.t < c.preset.total ∧ c.preset.total ≤ c.t + levelFactor c.t ((playing c).estimates c)) ∧
    (let c := { ctx .finished with preset := short, t := 256, dwell := 1 };
      c.gap = 0 ∧ c.phase = .finished ∧ c.dwell ≤ 1 ∧ c.w = 256 ∧ c.preset.autoRelease = true ∧ 2 ≤ c.preset.fOut) ∧
    (let c := { ctx .releasing with fadeOut := 24 };
      c.gap = 0 ∧ c.phase = .releasing ∧ c.preset.fOut ≤ c.fadeOut + 1) := by decide

theorem witness_SurgeUnitAtAnExpiry :
    (let s : State := { base with surge := ⟨[⟨5, 1⟩, ⟨1, 6⟩], .queued, 0⟩ };
      s.timerRuns = true ∧ (∃ c ∈ s.surge.window, c.life = 1) ∧ s.surge.status = .queued) ∧
    (let s : State := { base with surge := ⟨[⟨5, 1⟩], .sent, 0⟩ };
      (∃ c ∈ s.surge.window, c.life = 1) ∧ s.surge.status = .sent) ∧
    (let s : State := { base with surge := ⟨[], .granted, 1⟩ };
      s.surge.status = .granted ∧ s.surge.countdown = 1) ∧
    (let s : State := { base with surge := ⟨[], .granted, 2⟩ };
      s.surge.status = .granted ∧ 2 ≤ s.surge.countdown) ∧
    (let s : State := { base with
        surge := ⟨[⟨1, 9⟩, ⟨2, 9⟩, ⟨3, 9⟩], .none, 0⟩
        peers := { base.peers with stick := some ⟨true, -2047, 8⟩ } };
      s.axis.nodeState = .active ∧ s.limiter.vc = 0 ∧ s.start.profile.aLow < |s.target s.requested| - |s.limiter.vc| ∧
        s.surge.window.length < 4 ∧ s.link.load .surge = 0) ∧
    (base.axis.nodeState = .active ∧ |base.target base.requested| - |base.limiter.vc| ≤ base.start.profile.aLow) ∧
    (node .holdPark).axis.nodeState = .holdPark := by decide

theorem witness_PeerAndStickAgesGoStale :
    ((fresh base).timerRuns = true ∧ (fresh base).entry 3 = some (entry 8 0) ∧ (entry 8 0).age = 8 ∧
      (fresh base).moves.none? = true) ∧
    (let s : State := { base with peers := { base.peers with stick := some ⟨true, 147, 8⟩ } };
      s.timerRuns = true ∧ s.peers.stick = some ⟨true, 147, 8⟩) := by decide

theorem witness_LostParticipantHoldsTheMove :
    (∀ ph ∈ [Phase.running, .resuming, .posted],
      let c := ctx ph;
      (fresh (playing c)).timerRuns = true ∧ (fresh (playing c)).moves.active = some c ∧
        (fresh (playing c)).moves.pending = none ∧ c.kind = .joint ∧ c.phase = ph ∧ c.parts.has 3 = true ∧
        (fresh (playing c)).entry 3 = some (entry 8 0) ∧ (fresh (playing c)).link.load .cue < 4) ∧
    (let a := ctx .holding;
      let c := { ctx .posted with moveId := 43, serial := 1 };
      (fresh (paired a c)).timerRuns = true ∧ (fresh (paired a c)).moves.active = some a ∧
        (fresh (paired a c)).moves.pending = some c ∧ a.phase = .holding ∧ c.phase = .posted ∧ c.parts.has 3 = true ∧
        (fresh (paired a c)).entry 3 = some (entry 8 0) ∧ (entry 8 0).age = 8) := by decide

theorem witness_BrakeTimeoutFaultsAndSettleEndsInActive :
    (let s : State := { node .brakeRelease with axis := { (node .brakeRelease).axis with brakeCount := 99 } };
      s.timerRuns = true ∧ s.axis.nodeState = .brakeRelease ∧ s.axis.releaseConfirmed = false ∧
        s.drive.lines.brakeFb.active = false ∧ s.axis.brakeCount + 1 = s.start.profile.brakeTimeout ∧
        s.axis.cause = .none) ∧
    (let s : State := { node .brakeEngage with
        axis := { (node .brakeEngage).axis with brakeCount := 99 }
        drive := { base.drive with lines := { base.drive.lines with brakeFb := ⟨some true, true⟩ } } };
      s.axis.nodeState = .brakeEngage ∧ s.drive.lines.brakeFb.active = true ∧
        s.axis.brakeCount + 1 = s.start.profile.brakeTimeout) ∧
    (let s : State := { node .brakeRelease with axis := { (node .brakeRelease).axis with
        releaseConfirmed := true, settleCount := 24 } };
      s.axis.nodeState = .brakeRelease ∧ s.axis.releaseConfirmed = true ∧ s.axis.settleCount = 24) := by decide

theorem witness_ThirdDriveMissFaultsTheNode :
    (let s : State := { base with drive := { base.drive with silent := 2 } };
      s.timerRuns = true ∧ s.drive.exchange = some ⟨7, 0, 0, true, false, .awaiting⟩ ∧ s.axis.nodeState = .active ∧
        s.axis.cause = .none ∧ s.link.owed < 8 ∧ s.drive.silent = 2) ∧
    (∀ p, ExchangeOutcome.awaiting ≠ .answered p) ∧
    (let e : Exchange := ⟨7, 25601, 0, true, false, .answered 0⟩;
      let s : State := { base with drive := { base.drive with following := 2, exchange := some e } };
      s.timerRuns = true ∧ e.enable = true ∧ e.tracking = false ∧
        256 * s.start.profile.feLimit < |e.setpoint - 256 * 0| ∧ s.drive.following = 2) := by
  refine ⟨by decide, ?_, by decide⟩
  intro p h; cases h

theorem witness_NinthOwedFrameStarvesTheLink :
    (let s : State := { base with link := { base.link with owed := 8, stateLane := [plain (.state report)] } };
      s.timerRuns = true ∧ s.link.owed = 8 ∧ s.link.stateLane ≠ [] ∧
        becameThree s.drive.silent (judgedSilent s.drive.exchange s.drive.silent) = false ∧
        becameThree s.drive.following
          (judgedFollowing s.start.profile.feLimit s.drive.exchange s.drive.following) = false ∧
        s.axis.nodeState = .active) ∧
    (node .braked).axis.nodeState = .braked := by decide

theorem witness_LineTakesTheLowestOfferedFrame :
    (let s : State := { base with link := { base.link with stateLane := [plain (.state report)] } };
      s.live = true ∧ s.link.onLine = none ∧ s.link.lane .state = plain (.state report) :: [] ∧
        (∀ j ∈ Lane.all, j.cls < Lane.state.cls → s.link.lane j = []) ∧
        (∀ o ∈ ([0x44] : List Byte), 16 * Lane.state.cls + s.start.station.val ≤ o.toNat) ∧
        (∃ o ∈ ([0x43] : List Byte), o.toNat < 16 * Lane.state.cls + s.start.station.val)) := by decide

theorem witness_DepartureIsReportedToItsBlock :
    (base.live = true ∧ base.axis.nodeState ≠ .configFault ∧
      (⟨.state, plain (.state report), false⟩ : OnLine).lane = .state) ∧
    (let s : State := { base with surge := ⟨[], .queued, 0⟩ };
      s.surge.status = .queued ∧ (⟨.surge, plain .surge, false⟩ : OnLine).withdrawn = false) ∧
    (let c := ctx .gather;
      (playing c).moves.active = some c ∧ (playing c).moves.pending = none ∧ c.ownJoin = some .queued ∧
        (⟨.cue, ⟨.join 42, some 0⟩, false⟩ : OnLine).item.ctx = some c.serial) ∧
    (⟨.halt, plain (.halt .estopLine), false⟩ : OnLine).lane = .halt := by decide

theorem witness_UnacknowledgedFrameGoesBack :
    ((⟨.cue, plain (.join 1), false⟩ : OnLine).lane ≠ .state ∧ (⟨.cue, plain (.join 1), false⟩ : OnLine).withdrawn = false) ∧
    (⟨.surge, plain .surge, true⟩ : OnLine).withdrawn = true ∧ base.link.stateLane = [] ∧
    (let l : Link := { base.link with stateLane := [plain (.state report)], owed := 7 };
      l.stateLane ≠ [] ∧ l.owed < 8) ∧
    (let l : Link := { base.link with cueLane := [plain (.hold none 9), ⟨.join 42, some 1⟩, ⟨.join 43, some 2⟩] };
      l.cueLane = [plain (.hold none 9)] ++ ⟨.join 42, some 1⟩ :: [⟨.join 43, some 2⟩] ∧
        (∀ x ∈ [plain (.hold none 9)] ++ [(⟨.join 43, some 2⟩ : Queued)], x.ctx ≠ some 1) ∧ l.onLine = none ∧
        (∀ x ∈ l.cueLane, x.ctx ≠ some 3)) ∧
    (let o : OnLine := ⟨.cue, ⟨.join 42, some 1⟩, false⟩;
      o.lane = .cue ∧ o.item.ctx = some 1 ∧ ∀ x ∈ base.link.cueLane, x.ctx ≠ some 1) ∧
    (⟨.surge, plain .surge, false⟩ : OnLine).lane = .surge := by decide

theorem witness_HaltFrameStopsTheNode : (playing (ctx .running)).live = true ∧ base.limiter.vc = 0 ∧
    base.axis.nodeState = .active ∧ (node .brakeRelease).axis.nodeState = .brakeRelease ∧
    (node .brakeRelease).limiter.vc = 0 ∧ (node .braked).axis.nodeState = .braked := by decide

theorem witness_SurgeFrameAgainstTheWindow :
    base.isLoopback (from_ 4) .surge = false ∧
    (let s := departed { base with surge := ⟨[⟨1, 9⟩, ⟨2, 9⟩, ⟨3, 9⟩], .sent, 0⟩ } .surge;
      s.live = true ∧ s.isLoopback echoRx .surge = true ∧ s.surge.status = .sent ∧ s.surge.window.length < 4) ∧
    (let s := departed { base with surge := ⟨[⟨1, 9⟩, ⟨2, 9⟩, ⟨3, 9⟩, ⟨5, 9⟩], .sent, 0⟩ } .surge;
      s.isLoopback echoRx .surge = true ∧ s.surge.status = .sent ∧ 4 ≤ s.surge.window.length) ∧
    (let s := departed base .surge;
      s.isLoopback echoRx .surge = true ∧ s.surge.status = .none ∧ s.surge.countdown = 0) := by decide

theorem witness_AcceptedArmBeginsTheGather :
    (base.live = true ∧ StationSet.has 0b11110 base.start.station = true ∧ (42 : Byte) ≠ 0 ∧
      base.axis.nodeState = .active ∧ base.store.slots[(5 : Fin 48)] = .held presetA ∧ base.moves.active = none ∧
      base.moves.pending = none ∧ |base.ownPos - presetA.posAt 0| ≤ base.start.profile.startTol * 256 ∧
      base.link.load .cue < 4) ∧
    (∀ ph ∈ [Phase.gather, .armed, .posted],
      let a := ctx ph;
      let s : State := { playing a with
        link := { base.link with cueLane := [⟨.join 42, some 0⟩, plain (.hold none 9), plain (.hold none 9)] } };
      s.live = true ∧ s.axis.nodeState = .active ∧ s.store.slots[(5 : Fin 48)] = .held presetA ∧
        s.moves.pending = none ∧ s.link.load .cue < 4 ∧ s.moves.active = some a ∧ a.phase.fired = false ∧
        a.ownJoin = some .queued ∧ |s.ownPos - presetA.posAt 0| ≤ s.start.profile.startTol * 256) ∧
    (let a := ctx .suspended;
      (playing a).live = true ∧ (playing a).axis.nodeState = .active ∧ (playing a).moves.pending = none ∧
        (playing a).store.slots[(5 : Fin 48)] = .held presetA ∧ (playing a).link.load .cue < 4 ∧
        (playing a).moves.active = some a ∧ a.phase.playing = true ∧ a.moveId ≠ 43 ∧ a.preset.autoRelease = false) := by
  decide

theorem witness_RefusedArmAnswersItsFirstFailedTest :
    ((0b11110 : StationSet) ≠ 0 ∧ StationSet.has 0b11110 base.start.station = true ∧
      StationSet.has 0b1110 base.start.station = false) ∧
    (node .braked).axis.nodeState ≠ .active ∧ 48 ≤ (48 : Byte).toNat ∧ (7 : Byte).toNat = (7 : Fin 48).val ∧
    base.store.slots[(7 : Fin 48)] = .empty ∧ base.store.slots[(8 : Fin 48)] = .invalid ∧
    (after (.delete (svc 3) 5) base).store.slots[(5 : Fin 48)] = .erasing ∧
    ((playing (ctx .running)).store.slots[(5 : Fin 48)] = .held presetA ∧
      (playing (ctx .running)).moves.active = some (ctx .running) ∧ (ctx .running).phase.fired = true) ∧
    (paired (ctx .running) (ctx .gather)).moves.pending.isSome = true ∧
    (let a := { ctx .resuming with preset := short };
      (playing a).moves.pending = none ∧ (playing a).moves.active = some a ∧ a.phase.fired = true ∧
        a.phase.playing = true ∧ a.moveId ≠ 43 ∧ a.preset.autoRelease = true) ∧
    (let s : State := { playing (ctx .armed) with limiter := ⟨256001, 0, 0⟩ };
      s.moves.pending = none ∧ s.start.profile.startTol * 256 < |s.ownPos - presetA.posAt 0| ∧
        s.moves.active = some (ctx .armed) ∧ (ctx .armed).phase.fired = false ∧
        s.store.slots[(5 : Fin 48)] = .held presetA ∧ s.axis.nodeState = .active) := by decide

theorem witness_JoinEntersTheGatheringSet :
    (let c := { ctx .gather with parts := 0b110 };
      (playing c).live = true ∧ (playing c).moves.active = some c ∧ c.phase = .gather ∧
        (playing c).isLoopback (from_ 3) (.join c.moveId) = false ∧ c.parts.has 3 = false ∧ c.parts.has 2 = true ∧
        (departed (playing c) (.join 42)).isLoopback echoRx (.join c.moveId) = true ∧ c.parts.has echoRx.src = false) := by
  decide

/-- Every participant of `ctx` is FRESH in `fresh`. -/
theorem fresh_participants (n : Station) (h : StationSet.has 0b11110 n = true) :
    ∃ e, (fresh (playing (ctx .armed))).entry n = some e ∧ e.age ≤ 8 := by
  revert h; revert n
  have : ∀ n : Station, StationSet.has 0b11110 n = true →
      ((fresh (playing (ctx .armed))).entry n).any (fun e => decide (e.age ≤ 8)) = true := by decide
  intro n h
  have := this n h
  cases he : (fresh (playing (ctx .armed))).entry n with
  | none => rw [he] at this; cases this
  | some e => rw [he] at this; exact ⟨e, rfl, by simpa using this⟩

/-- The third is not in `lost`. -/
theorem lost_participant : StationSet.has 0b11110 3 = true ∧
    ∀ e, (lost (playing (ctx .armed))).entry 3 = some e → 9 ≤ e.age := by
  refine ⟨by decide, ?_⟩
  intro e h
  have h2 : (lost (playing (ctx .armed))).entry 3 = some (entry 9 0) := by decide
  rw [h2] at h; cases h
  decide

theorem witness_GoPostsAnArmedContext :
    (let c := ctx .armed;
      (fresh (playing c)).live = true ∧ (fresh (playing c)).moves.active = some c ∧
        (fresh (playing c)).moves.pending = none ∧ c.moveId ≠ 0 ∧ c.phase = .armed ∧ (ctx .posted).phase = .posted) ∧
    (∀ n, StationSet.has 0b11110 n = true → ∃ e, (fresh (playing (ctx .armed))).entry n = some e ∧ e.age ≤ 8) ∧
    (∃ n, StationSet.has 0b11110 n = true ∧ ∀ e, (lost (playing (ctx .armed))).entry n = some e → 9 ≤ e.age) ∧
    ((ctx .finished).phase.fired = true ∧ (ctx .gather).phase = .gather ∧ (ctx .gather).ownJoin = some .queued ∧
      ∃ i, (some (18 : Byte) = some 18 ∧ i = Instr.go (from_ 7) 18 42 100) ∨ i = .hold (from_ 7) (some 18) 42 ∨
        i = .resume (from_ 7) (some 18) 42 ∨ i = .release (from_ 7) (some 18) 42) :=
  ⟨by decide, fresh_participants, ⟨3, lost_participant⟩, by decide, by decide, by decide, _, .inl ⟨rfl, rfl⟩⟩

theorem witness_HoldByPhaseAndTag :
    (playing (ctx .running)).live = true ∧ (playing (ctx .running)).moves.active = some (ctx .running) ∧
    (ctx .running).moveId ≠ 0 ∧ (ctx .running).gap = 0 ∧
    (let c := { ctx .resuming with gap := 50 };
      c.phase = .resuming ∧ c.gap ≠ 0 ∧ (some (1 : Byte)) ≠ none) ∧
    (ctx .suspended).phase = .suspended ∧ (ctx .releasing).phase = .releasing := by decide

theorem witness_ResumeByPhaseAndParticipants :
    ((fresh (playing (ctx .suspended))).live = true ∧
      (fresh (playing (ctx .suspended))).moves.active = some (ctx .suspended) ∧ (ctx .suspended).moveId ≠ 0 ∧
      (ctx .suspended).phase = .suspended ∧ (ctx .resuming).phase = .resuming ∧ (ctx .finished).phase = .finished) ∧
    (∀ n, StationSet.has 0b11110 n = true → ∃ e, (fresh (playing (ctx .armed))).entry n = some e ∧ e.age ≤ 8) ∧
    (∃ n, StationSet.has 0b11110 n = true ∧ ∀ e, (lost (playing (ctx .armed))).entry n = some e → 9 ≤ e.age) :=
  ⟨by decide, fresh_participants, ⟨3, lost_participant⟩⟩

theorem witness_ReleaseSetsReleaseAtEnd :
    (playing (ctx .releasing)).live = true ∧ (playing (ctx .releasing)).moves.active = some (ctx .releasing) ∧
    (ctx .releasing).moveId ≠ 0 ∧ (ctx .releasing).phase ≠ .gather ∧ (ctx .armed).phase ≠ .gather := by decide

theorem witness_CancelAbandonsTheMove :
    (let c := ctx .gather;
      (playing c).live = true ∧ (playing c).moves.active = some c ∧ (playing c).moves.pending = none ∧
        c.phase.fired = false) ∧
    (let c := ctx .running;
      let p := { ctx .gather with moveId := 43, serial := 1 };
      (playing c).moves.pending = none ∧ c.phase.fired = true ∧ c.phase ≠ .releasing ∧
        (paired c p).moves.active = some c ∧ (paired c p).moves.pending = some p ∧ c.moveId ≠ p.moveId) ∧
    (ctx .releasing).phase = .releasing := by decide

theorem witness_StickFrameWritesTheRecord :
    base.live = true ∧ base.start.accepted = true ∧
    (let channels : List Channel := [⟨.pan, 5⟩, ⟨.tilt, 0x8000⟩];
      1 ≤ channels.length ∧ channels.length ≤ 6 ∧ channels = [⟨.pan, 5⟩] ++ ⟨.tilt, 0x8000⟩ :: [] ∧
        (∀ b ∈ ([⟨.pan, 5⟩] : List Channel), b.role ≠ base.start.profile.role) ∧
        Role.tilt = base.start.profile.role ∧ base.start.profile.stickSource = some (from_ 7).src ∧
        base.start.profile.stickSource ≠ some (from_ 6).src) := by decide

theorem witness_StateFrameWritesItsEntry :
    (base.live = true ∧ report.within = true ∧ (from_ 2).src ≠ base.start.station ∧ base.moves.none? = true ∧
      (departed base (.state report)).isLoopback echoRx (.state report) = true) ∧
    ((from_ 4).src = base.start.station ∧ base.isLoopback (from_ 4) (.state report) = false ∧
      base.axis.nodeState = .active ∧ base.axis.cause = .none ∧ base.limiter.vc = 0) ∧
    (∀ ph ∈ [Phase.armed, .running],
      let c := ctx ph;
      (playing c).live = true ∧ (playing c).moves.active = some c ∧ (playing c).moves.pending = none ∧
        c.parts.has (from_ 2).src = true ∧ c.phase ≠ .gather ∧ c.phase ≠ .releasing ∧
        (playing c).link.load .cue < 4) ∧
    (let r := { report with report := some (.move 42 .armed), parts := some 0b110 };
      r.within = true ∧ r.report = some (.move (ctx .armed).moveId .armed) ∧ r.parts = some 0b110 ∧
        Phase.armed ≠ .gather ∧ (0b110 : StationSet) ≠ (ctx .armed).parts) ∧
    (report.report = some (.move (ctx .armed).moveId .gather) ∧ report.parts = some 0) := by decide

theorem witness_FramesNotForTheNodeChangeNothing :
    base.live = true ∧ (Frame.descriptor 3 (List.replicate 49 0)).within = true ∧
    (∀ c ∈ ([[0, 0, 0, 0, 0, 16, 0, 0, 0], [0, 0, 0, 0, 0, 0, 6, 0, 0], [0, 0, 0, 0, 0, 0, 0, 10, 0]] : List (List Byte)),
      c.length = 9 ∧ (16 ≤ (c.getD 5 0).toNat ∨ 6 ≤ (c.getD 6 0).toNat ∨ 10 ≤ (c.getD 7 0).toNat)) ∧
    (let l : List Byte := List.replicate 47 0 ++ [6, 0];
      l.length = 49 ∧ l[47]? = some 6) ∧
    (let l : List Byte := List.replicate 48 0 ++ [5];
      l.length = 49 ∧ l[48]? = some 5) ∧
    (Instr.undo ⟨from_ 7, 1, 5⟩).arrival? = some (from_ 7, .service 1 5 .undo) ∧ (5 : Station) ≠ base.start.station ∧
    (Instr.arm (from_ 7) 17 42 5 0 false).arrival? = some (from_ 7, .arm 17 42 5 0 false) ∧
    (Frame.arm 17 42 5 0 false).within = false := by decide

theorem witness_QueryHandsADescriptor :
    base.live = true ∧ (svc 3).target = base.start.station ∧ base.start.image.length = 56 ∧ (3 : Byte).toNat ≤ 3 ∧
    base.link.load .service < 2 ∧ 4 ≤ (4 : Byte).toNat := by decide

theorem witness_EditBufferCommandsAct :
    (base.live = true ∧ (svc 3).target = base.start.station ∧ base.axis.nodeState = .active ∧
      base.store.op.inFlight = false ∧ base.store.buffer = []) ∧
    (let b : List Keyframe := List.replicate 23 ⟨0, none⟩;
      b ≠ [] ∧ b.length < 24) ∧
    24 ≤ (List.replicate 24 (⟨0, none⟩ : Keyframe)).length := by decide

theorem witness_CommitBeginsAWrite :
    (let s : State := { base with store := { base.store with buffer := presetA.keys.take 2 } };
      s.live = true ∧ (svc 3).target = s.start.station ∧ s.store.op = .idle ∧ 2 ≤ s.store.buffer.length ∧
        s.store.slots[(7 : Fin 48)].status ≠ .guarded ∧ s.moves.guards 7 = false) := by decide

theorem witness_DeleteByItsTests :
    (base.live = true ∧ (svc 3).target = base.start.station ∧ 48 ≤ (48 : Byte).toNat ∧
      (47 : Byte).toNat = (47 : Fin 48).val) ∧
    (storing base .locked).store.op = .locked ∧ (storing base (.checking 3)).store.op.busy = true ∧
    (base.store.op = .idle ∧ base.store.slots[(6 : Fin 48)].status = .guarded) ∧
    ((playing (ctx .armed)).store.slots[(5 : Fin 48)].status ≠ .guarded ∧
      (playing (ctx .armed)).moves.guards 5 = true) ∧
    (base.store.slots[(7 : Fin 48)] = .empty ∧ base.moves.guards 7 = false) ∧
    (base.store.slots[(5 : Fin 48)].status ≠ .guarded ∧ base.store.slots[(5 : Fin 48)] ≠ .empty ∧
      base.moves.guards 5 = false) := by decide

theorem witness_UnprotectBeginsARewrite :
    (let s := node .braked;
      s.live = true ∧ (svc 3).target = s.start.station ∧ s.store.op = .idle ∧ s.axis.nodeState = .braked ∧
        s.store.slots[(6 : Fin 48)] = .held short ∧ short.protect = true ∧
        s.store.slots[(5 : Fin 48)] = .held presetA ∧ presetA.protect = false ∧
        s.store.slots[(7 : Fin 48)] = .empty ∧ s.store.slots[(8 : Fin 48)] = .invalid) := by decide

theorem witness_StoreCompletionEndsTheOperation :
    base.live = true ∧ base.store.op.inFlight = false ∧
    (storing base (.writing ⟨.commit, 5, 1, 3⟩ presetA)).store.op = .writing ⟨.commit, 5, 1, 3⟩ presetA ∧
    (storing base (.erasing ⟨.delete, 5, 1, 249⟩)).store.op = .erasing ⟨.delete, 5, 1, 249⟩ ∧
    (⟨.delete, 5, 1, 249⟩ : OpRecord).kind = .delete ∧ (⟨.delete, 5, 1, 249⟩ : OpRecord).elapsed = 249 ∧
    (storing base (.erasing ⟨.delete, 5, 1, 249⟩)).timerRuns = true := by decide

theorem witness_GotoStartPostsAnApproach :
    base.live = true ∧ (svc 3).target = base.start.station ∧ base.axis.nodeState = .active ∧
    base.store.slots[(5 : Fin 48)] = .held presetA ∧ base.moves.none? = true ∧
    1 ≤ base.start.profile.vApproach := by decide

theorem witness_ParkAndUnparkChangeTheState :
    ((node .braked).live = true ∧ (svc 3).target = (node .braked).start.station ∧
      (node .braked).axis.nodeState ≠ .active) ∧
    ((playing (ctx .running)).axis.nodeState = .active ∧ (playing (ctx .running)).moves.none? = false) ∧
    (base.axis.nodeState = .active ∧ base.limiter.vc = 0 ∧ base.moves.none? = true) ∧
    ((node .braked).axis.nodeState = .braked ∧ (node .braked).axis.haltLatch = false ∧
      (node .braked).axis.cause = .none ∧ (node .braked).drive.actual = some 0 ∧
      |(0 : Int) * 256| ≤ 1024000000 ∧ |(4000000 : Int) * 256| ≤ 1024000000) ∧
    (after (.halt (from_ 7) .console) (node .braked)).axis.haltLatch = true ∧
    (node .holdPark).axis.nodeState = .holdPark := by decide

theorem witness_ClearActsByNodeState :
    (let s := storing (node .stopped) .locked;
      s.live = true ∧ (svc 3).target = s.start.station ∧ s.link.owed < 9 ∧ s.axis.nodeState = .stopped ∧
        s.drive.lines.estop.active = false ∧ s.store.op = .locked) ∧
    (let s := node .faulted;
      s.axis.nodeState = .faulted ∧ s.drive.lines.driveFault.active = false) ∧
    (let s := after (.halt (from_ 7) .console) (node .braked);
      s.axis.nodeState = .braked ∧ s.drive.lines.estop.active = false ∧ s.store.op ≠ .locked ∧
        s.axis.haltLatch = true) ∧
    ((storing base .locked).axis.nodeState = .active ∧ (storing base .locked).store.op = .locked ∧
      base.store.op ≠ .locked) := by decide

theorem witness_RestartBeginsAStart :
    ((node .faulted).live = true ∧ (svc 3).target = (node .faulted).start.station ∧
      (node .faulted).axis.nodeState ∈ [NodeState.braked, .stopped, .faulted, .configFault] ∧
      (node .faulted).store.op.busy = false) ∧
    (storing (node .faulted) (.erasing ⟨.delete, 5, 1, 3⟩)).store.op.busy = true ∧
    base.axis.nodeState ∉ [NodeState.braked, .stopped, .faulted, .configFault] := by decide

theorem witness_RefusedServiceChangesTheEchoAlone :
    (Instr.delete (svc 3) 6).arrival? = some (from_ 7, .service 3 4 (.delete 6)) ∧ base.live = true ∧
    (4 : Station) = base.start.station ∧ exec (.delete (svc 3) 6) base = .next (after (.delete (svc 3) 6) base) ∧
    (after (.delete (svc 3) 6) base).link.echo = some (3, .slotProtected) ∧ ResultCode.slotProtected ≠ .ok :=
  ⟨by decide, by decide, by decide, rfl, by decide, by decide⟩

theorem witness_BlendIsOneRoundedQuotient :
    ((256 ≤ 256 ∧ 0 ≤ 256) ∧ |(-262143 : Int)| ≤ 262143 ∧ |(2048000000 : Int)| ≤ 2048000000 ∧
      2 * |blendNumerator 1 ⟨128, 0, 0⟩ - 65536 * weightedBlend 1 ⟨128, 0, 0⟩| = 65536) ∧
    (∀ r ∈ [(⟨true, 2047, 9⟩ : StickRecord), ⟨false, 2047, 8⟩, ⟨true, -47, 8⟩],
      9 ≤ r.age ∨ r.enable = false ∨ |r.d| ≤ base.start.profile.deadband) ∧
    (let s : State := { base with peers := { base.peers with stick := some ⟨true, -48, 8⟩ } };
      s.peers.stick = some ⟨true, -48, 8⟩ ∧ s.axis.nodeState ≠ .holdPark ∧ 0 ≤ s.start.profile.deadband ∧
        s.start.profile.deadband < |-48| ∧ |(-48 : Int)| ≤ 2047 ∧ 1 ≤ s.start.profile.vs ∧
        s.start.profile.curve = .linear) ∧
    ({ prof with curve := .square } : Profile).curve = .square ∧
    (base.start.profile.followSource = some 2 ∧ (fresh base).entry 2 = some (entry 0 0)) := by decide

theorem witness_AccelerationLaw :
    ((0 : Int) ≤ 300 ∧ (0 : Int) ≤ 0) ∧
    (let s : State := { fresh base with
        start := { base.start with profile := { prof with role := .swing, extSource := some 3, r0 := 1 } } };
      0 ≤ s.start.profile.vAxisMax ∧ 0 ≤ s.start.profile.aLow ∧ 0 ≤ s.start.profile.lMax ∧ 1 ≤ s.start.profile.r0 ∧
        0 ≤ s.start.profile.tTip ∧ s.start.profile.role.hasTip = true ∧ s.entry 3 = some (entry 8 0)) := by decide

theorem witness_LimitGuardLaw :
    (base.axis.nodeState = .active ∧ base.start.profile.pMin < base.start.profile.pMax) ∧
    ((node .stopping).axis.nodeState = .stopping ∧ (node .stopping).start.profile.pMin < (node .stopping).start.profile.pMax) ∧
    (let s : State := { node .stopping with limiter := ⟨25600000, 9999, 0⟩ };
      s.limiter.S ≤ s.start.profile.pMax * 256 ∧
        s.start.profile.pMax * 256 < clampFine (s.limiter.S + s.operate.limiter.vc)) ∧
    (let s : State := { node .stopping with limiter := ⟨25600001, 9999, 0⟩ };
      s.start.profile.pMax * 256 < s.limiter.S ∧ s.limiter.S < clampFine (s.limiter.S + s.operate.limiter.vc)) ∧
    (let s : State := { node .stopping with limiter := ⟨-25600000, -9999, 0⟩ };
      s.start.profile.pMin * 256 ≤ s.limiter.S ∧
        clampFine (s.limiter.S + s.operate.limiter.vc) < s.start.profile.pMin * 256) ∧
    (let s : State := { node .stopping with limiter := ⟨-25600001, -9999, 0⟩ };
      s.limiter.S < s.start.profile.pMin * 256 ∧ clampFine (s.limiter.S + s.operate.limiter.vc) < s.limiter.S) := by decide

theorem witness_SilentPeerGivesTheSubstitutes :
    (∀ e, (lost base).entry 3 = some e → 9 ≤ e.age) ∧ base.start.profile.followSource = some 2 ∧
    (∀ e, base.entry 2 = some e → 9 ≤ e.age) := by
  refine ⟨?_, by decide, ?_⟩
  · intro e h
    have h2 : (lost base).entry 3 = some (entry 9 0) := by decide
    rw [h2] at h; cases h
    decide
  · intro e h
    have h2 : base.entry 2 = none := by decide
    rw [h2] at h; cases h

theorem witness_SegmentContributionsSumToItsChange :
    presetA.wellFormed = true ∧ 1 + 1 < presetA.keys.length ∧
    (∀ t ∈ [presetA.bound 1, 200000, presetA.bound 2], presetA.bound 1 ≤ t ∧ t ≤ presetA.bound (1 + 1)) := by decide

/-- A node that plays, with a PENDING context beside. -/
def busyNode : State := paired (ctx .running) { ctx .gather with moveId := 43, serial := 1 }

theorem witness_StepKeepsAxisSafe : AxisSafe busyNode := by decide
theorem witness_StepKeepsLinkSafe : OwedSafe busyNode ∧ LanesSafe busyNode := by decide
theorem witness_StepKeepsSurgeAndStoreSafe : SurgeSafe busyNode ∧ StoreSafe busyNode := ⟨by decide, by decide⟩
theorem witness_StepKeepsMovesSafe : StoreSafe busyNode ∧ MovesSafe busyNode ∧ busyNode.moves.serialsFit :=
  ⟨by decide, by decide, by decide⟩

/-- From each of these states a step answers a next state. -/
theorem witness_StepKeepsInvariants : step busyNode = .next busyNode.background ∧ busyNode.live = true := ⟨rfl, by decide⟩

theorem witness_StepKeepsFrozenSets :
    (let c := ctx .running;
      (playing c).moves.serialsFit ∧ (playing c).moves.active = some c ∧ c.phase ≠ .gather ∧
        (playing c).background.moves.active = some c) := by decide

theorem witness_SentFrameIsReceived : (Frame.state report).within = true ∧ (Frame.descriptor 0 (List.replicate 9 0)).within = true ∧
    (Frame.stick false (List.replicate 6 ⟨.roll, 0x8000⟩)).within = true := by decide

end Sys2Proof.Tests
end

section
/-! The limit guard (R37). Against both soft limits together it clamps the result of R36 to the interval spanned by the
soft limits and the old setpoint: the third law and every case of the rule are read off from that. -/

namespace Sys2Proof.Machine

/-- The guard against P_max bounds the new setpoint from above, by the limit or by an old setpoint beyond it. -/
theorem guardMax_eq (lim old new : Int) : guardMax lim old new = min new (max lim old) := by
  unfold guardMax
  split <;> split <;> omega

/-- The guard against P_min bounds the new setpoint from below, by the limit or by an old setpoint beyond it. -/
theorem guardMin_eq (lim old new : Int) : guardMin lim old new = max new (min lim old) := by
  unfold guardMin
  split <;> split <;> omega

section Integration
variable {p : Profile} {S vc : Int}

theorem integrated_eq : integrated p S vc =
    max (min (clampFine (S + vc)) (max (p.pMax * 256) S)) (min (p.pMin * 256) S) := by
  rw [integrated, guardMin_eq, guardMax_eq]

/-- The third law of the part (R37). -/
theorem integrated_mem : min (p.pMin * 256) S ≤ integrated p S vc ∧ integrated p S vc ≤ max (p.pMax * 256) S := by
  rw [integrated_eq]
  omega

theorem integrated_of_above (h : max (p.pMax * 256) S ≤ clampFine (S + vc)) :
    integrated p S vc = max (p.pMax * 256) S := by
  rw [integrated_eq, min_eq_right h]
  omega

theorem integrated_of_below (h : clampFine (S + vc) ≤ min (p.pMin * 256) S) :
    integrated p S vc = min (p.pMin * 256) S := by
  rw [integrated_eq, max_eq_right (le_trans (min_le_left _ _) h)]

theorem integrated_of_between (hlo : min (p.pMin * 256) S ≤ clampFine (S + vc))
    (hhi : clampFine (S + vc) ≤ max (p.pMax * 256) S) : integrated p S vc = clampFine (S + vc) := by
  rw [integrated_eq, min_eq_left hhi, max_eq_left hlo]

end Integration

theorem State.operate_of_blending {s : State} (h : s.axis.nodeState = .active ∨ s.axis.nodeState = .holdPark) :
    s.operate = s.limiterChain := by
  unfold State.operate
  obtain h | h := h <;> rw [h]

theorem State.operate_of_stopping {s : State} (h : s.axis.nodeState = .stopping) : s.operate = s.stopOperation := by
  unfold State.operate
  rw [h]

/-- In the states of the third law the operation integrates the commanded velocity it has written (R36, R40). -/
theorem State.operate_integrates {s : State}
    (h : s.axis.nodeState = .active ∨ s.axis.nodeState = .holdPark ∨ s.axis.nodeState = .stopping) :
    s.operate.limiter.S = integrated s.start.profile s.limiter.S s.operate.limiter.vc := by
  obtain hb | hs := or_assoc.mpr h
  · rw [State.operate_of_blending hb]; rfl
  · rw [State.operate_of_stopping hs]; rfl

/-- Settles O51: the result of R36 lies above, below or within the interval of the limits and the old setpoint, and each
clause on S is one of these three, or the third law. -/
theorem limitGuardLaw : Obligations.LimitGuardLaw := by
  unfold Obligations.LimitGuardLaw
  intro s hn hp hi lo S t new
  have hlohi : lo < hi := by omega
  have hS : t.limiter.S = integrated s.start.profile S t.limiter.vc := State.operate_integrates hn
  have above : max hi S ≤ new → t.limiter.S = max hi S := fun h => hS.trans (integrated_of_above h)
  have below : new ≤ min lo S → t.limiter.S = min lo S := fun h => hS.trans (integrated_of_below h)
  have between : min lo S ≤ new → new ≤ max hi S → t.limiter.S = new :=
    fun h h' => hS.trans (integrated_of_between h h')
  have third : min lo S ≤ t.limiter.S ∧ t.limiter.S ≤ max hi S := hS ▸ integrated_mem
  clear_value hi lo S new
  refine ⟨by omega, by omega, by omega, by omega, by omega, by omega, by omega, by omega, by omega, by omega,
    fun hns => ?_, fun hs => ?_⟩
  · have ht : t = s.limiterChain := State.operate_of_blending ((or_assoc.mpr hn).resolve_right hns)
    rw [ht]
    exact ⟨rfl, rfl⟩
  · have ht : t = s.stopOperation := State.operate_of_stopping hs
    rw [ht]
    exact ⟨rfl, rfl⟩

end Sys2Proof.Machine
end

section
/-! A SURGE frame at the surge unit (R60, R61): whatever the frame is, the window takes its claim or stays as it is; only
the node's own loopback settles the claim status, and only where the claim is SENT. -/

namespace Sys2Proof.Machine

section Settling
variable (w : List Claim) (cd : Nat)

theorem Surge.settle_accepted : (Surge.mk w .sent cd).settle true = ⟨w, .granted, Config.surgeGrant⟩ := rfl

theorem Surge.settle_refused : (Surge.mk w .sent cd).settle false = ⟨w, .none, 0⟩ := rfl

/-- A status the table of R61 does not name stands (log entry 9). -/
theorem Surge.settle_of_ne_sent {c : ClaimStatus} (h : c ≠ .sent) (accepted : Bool) :
    (Surge.mk w c cd).settle accepted = ⟨w, c, cd⟩ := by
  cases c with
  | sent => exact absurd rfl h
  | none | queued | granted => rfl

end Settling

namespace State

/-- Another station's claim, or one under the node's number that is no loopback, leaves the own status alone. -/
theorem claimArrives_other (s : State) (src : Station) :
    s.claimArrives src false =
      { s with surge := ⟨claimWindow s.surge.window src, s.surge.status, s.surge.countdown⟩ } := rfl

/-- The own claim is judged by the room in the window it arrives at (R60 before R61). -/
theorem claimArrives_own (s : State) (src : Station) :
    s.claimArrives src true =
      { s with
        surge := (Surge.mk (claimWindow s.surge.window src) s.surge.status s.surge.countdown).settle
          (decide (s.surge.window.length < Config.surgeSlots)) } := rfl

section Loopback
variable {s : State} (src : Station)

theorem claimArrives_own_granted (hsent : s.surge.status = .sent) (hroom : s.surge.window.length < Config.surgeSlots) :
    s.claimArrives src true =
      { s with surge := ⟨claimWindow s.surge.window src, .granted, Config.surgeGrant⟩ } := by
  rw [claimArrives_own, hsent, decide_eq_true hroom, Surge.settle_accepted]

theorem claimArrives_own_void (hsent : s.surge.status = .sent) (hfull : Config.surgeSlots ≤ s.surge.window.length) :
    s.claimArrives src true = { s with surge := ⟨claimWindow s.surge.window src, .none, 0⟩ } := by
  rw [claimArrives_own, hsent, decide_eq_false (Nat.not_lt.mpr hfull), Surge.settle_refused]

/-- With no claim SENT, the node's own loopback is taken as another station's claim is. -/
theorem claimArrives_own_of_ne_sent (h : s.surge.status ≠ .sent) :
    s.claimArrives src true = s.claimArrives src false := by
  rw [claimArrives_own, Surge.settle_of_ne_sent _ _ h, claimArrives_other]

end Loopback
end State

theorem exec_surge {s : State} (hl : s.live = true) (rx : Rx) :
    exec (.surge rx) s = .next (s.heard.claimArrives rx.src (s.isLoopback rx .surge)) :=
  State.arrive_taken (f := .surge) hl rfl rx (fun own t => t.claimArrives rx.src own)

/-- Settles O26: by whether the frame is a loopback, then by the own status and the room in the window. -/
theorem surgeFrameAgainstTheWindow : Obligations.SurgeFrameAgainstTheWindow := by
  unfold Obligations.SurgeFrameAgainstTheWindow
  intro rx s hl taken
  rw [exec_surge hl]
  refine ⟨fun hother => ?_, fun hown hsent hroom => ?_, fun hown hsent hfull => ?_, fun hown hnone hcd => ?_⟩
  · rw [hother, State.claimArrives_other]
    rfl
  · rw [hown, State.claimArrives_own_granted (s := s.heard) rx.src hsent hroom]
    rfl
  · rw [hown, State.claimArrives_own_void (s := s.heard) rx.src hsent hfull]
    rfl
  · have hstands : s.heard.surge.status ≠ .sent := by simp [hnone]
    rw [hown, State.claimArrives_own_of_ne_sent rx.src hstands, State.claimArrives_other, State.heard_surge, hnone, hcd]
    rfl

end Sys2Proof.Machine
end

section
/-! A HOLD and a RESUME at a fired context (R100, R101). A cue reaches the ACTIVE context, whose phase and participants
decide what becomes of it; the node then awaits no loopback, a tagged cue is echoed, and nothing else changes. -/

namespace Sys2Proof.Machine

theorem State.withActive_self {s : State} {c : Context} (ha : s.moves.active = some c) : s.withActive (some c) = s := by
  rw [State.withActive, ← ha]

/-- The state after a cue that leaves the context `d` in the ACTIVE place and has the code `rc` (R72, R171). -/
def State.cueAnswered (s : State) (tag : Option Byte) (d : Context) (rc : ResultCode) : State :=
  { s with
    moves := { s.moves with active := some d }
    link := { s.link with departed := none, echo := (tag.map (fun x => (x, rc))).or s.link.echo } }

section Answers
variable (s : State) (tag : Option Byte) (rc : ResultCode)

theorem State.answerCue_heard_withActive (d : Context) :
    (s.heard.withActive (some d)).answerCue tag rc = s.cueAnswered tag d rc := by
  cases tag <;> rfl

theorem State.answerCue_heard {s : State} {c : Context} (ha : s.moves.active = some c) :
    s.heard.answerCue tag rc = s.cueAnswered tag c rc := by
  rw [← State.answerCue_heard_withActive, State.withActive_self (s := s.heard) ha]

end Answers

section Hold
variable {c : Context} {tag : Option Byte}

/-- Outside the resume gap every HOLD is taken, and inside it a node's is. -/
theorem Context.hold_taken (h : c.gap = 0 ∨ tag = none) : c.hold tag.isSome = { c with phase := .holding } := by
  refine if_neg fun ⟨hgap, htagged⟩ => ?_
  obtain hzero | rfl := h
  · exact hgap hzero
  · exact Bool.false_ne_true htagged

theorem Context.hold_deferred (hgap : c.gap ≠ 0) (htag : tag ≠ none) :
    c.hold tag.isSome = { c with deferred := true } :=
  if_pos ⟨hgap, Option.isSome_iff_ne_none.mpr htag⟩

variable (s : State) (tag) (p : Place)

theorem State.holdAt_of_moving (h : c.phase = .running ∨ c.phase = .resuming) :
    s.holdAt tag p c = (s.putContext p (some (c.hold tag.isSome))).answerCue tag .ok := by
  unfold State.holdAt
  obtain h | h := h <;> rw [h]

theorem State.holdAt_of_held (h : c.phase = .holding ∨ c.phase = .suspended) :
    s.holdAt tag p c = s.answerCue tag .ok := by
  unfold State.holdAt
  obtain h | h := h <;> rw [h]

theorem State.holdAt_of_ended (h : c.phase = .finished ∨ c.phase = .releasing) :
    s.holdAt tag p c = s.answerCue tag .refusedState := by
  unfold State.holdAt
  obtain h | h := h <;> rw [h]

end Hold

section Resume
variable (s : State) (tag : Option Byte) (p : Place) {c : Context}

theorem State.resumeAt_of_held (h : c.phase = .holding ∨ c.phase = .suspended) :
    s.resumeAt tag p c =
      if s.allFresh c.parts then
        (s.putContext p (some { c with phase := .resuming, gap := Config.resumeGap })).answerCue tag .ok
      else s.answerCue tag .peerLost := by
  unfold State.resumeAt
  obtain h | h := h <;> rw [h]

theorem State.resumeAt_of_resuming (h : c.phase = .resuming) :
    s.resumeAt tag p c = (s.putContext p (some { c with deferred := false })).answerCue tag .ok := by
  unfold State.resumeAt
  rw [h]

theorem State.resumeAt_of_running_or_ended (h : c.phase = .running ∨ c.phase = .finished ∨ c.phase = .releasing) :
    s.resumeAt tag p c = s.answerCue tag .refusedState := by
  unfold State.resumeAt
  obtain h | h | h := h <;> rw [h]

end Resume

section Arrival
variable {s : State} (hl : s.live = true) (rx : Rx) (tag : Option Byte)
include hl

theorem exec_hold (moveId : Byte) :
    exec (.hold rx tag moveId) s = .next (s.heard.cueAt moveId (s.heard.holdAt tag)) :=
  State.arrive_taken (f := .hold tag moveId) hl rfl rx fun _ t => t.cueAt moveId (t.holdAt tag)

theorem exec_resume (moveId : Byte) :
    exec (.resume rx tag moveId) s = .next (s.heard.cueAt moveId (s.heard.resumeAt tag)) :=
  State.arrive_taken (f := .resume tag moveId) hl rfl rx fun _ t => t.cueAt moveId (t.resumeAt tag)

variable {c : Context} (ha : s.moves.active = some c) (hm : c.moveId ≠ 0)
include ha hm

theorem exec_hold_active : exec (.hold rx tag c.moveId) s = .next (s.heard.holdAt tag .active c) := by
  rw [exec_hold hl, State.cueAt_active (s := s.heard) ha hm]

theorem exec_resume_active : exec (.resume rx tag c.moveId) s = .next (s.heard.resumeAt tag .active c) := by
  rw [exec_resume hl, State.cueAt_active (s := s.heard) ha hm]

end Arrival

/-- Settles O31: by the phase of the context, and in MP_RUNNING and MP_RESUMING by the resume gap and the tag. -/
theorem holdByPhaseAndTag : Obligations.HoldByPhaseAndTag := by
  unfold Obligations.HoldByPhaseAndTag
  intro rx tag s c hl ha hm run answered
  have hrun : run = .next (s.heard.holdAt tag .active c) := exec_hold_active hl rx tag ha hm
  have hanswered : ∀ d rc, answered d rc = .next (s.cueAnswered tag d rc) := fun _ _ => rfl
  simp only [hrun, hanswered]
  refine ⟨fun hph htaken => ?_, fun hph hgap htag => ?_, fun hph => ?_, fun hph => ?_⟩
  · rw [State.holdAt_of_moving _ _ _ hph, Context.hold_taken htaken, State.putContext_active,
      State.answerCue_heard_withActive]
  · rw [State.holdAt_of_moving _ _ _ hph, Context.hold_deferred hgap htag, State.putContext_active,
      State.answerCue_heard_withActive]
  · rw [State.holdAt_of_held _ _ _ hph, State.answerCue_heard _ _ ha]
  · rw [State.holdAt_of_ended _ _ _ hph, State.answerCue_heard _ _ ha]

/-- Settles O32: by the phase of the context, and in MP_HOLDING and MP_SUSPENDED by whether a participant is lost. -/
theorem resumeByPhaseAndParticipants : Obligations.ResumeByPhaseAndParticipants := by
  unfold Obligations.ResumeByPhaseAndParticipants
  intro rx tag s c hl ha hm run answered
  have hrun : run = .next (s.heard.resumeAt tag .active c) := exec_resume_active hl rx tag ha hm
  have hanswered : ∀ d rc, answered d rc = .next (s.cueAnswered tag d rc) := fun _ _ => rfl
  simp only [hrun, hanswered]
  refine ⟨fun hph hfresh => ?_, fun hph ⟨n, hn, hlost⟩ => ?_, fun hph => ?_, fun hph => ?_⟩
  · have hall : s.heard.allFresh c.parts = true := (State.allFresh_iff _ _).mpr hfresh
    rw [State.resumeAt_of_held _ _ _ hph, if_pos hall, State.putContext_active, State.answerCue_heard_withActive]
    rfl
  · have hnot : s.heard.allFresh c.parts = false := State.allFresh_lost hn hlost
    rw [State.resumeAt_of_held _ _ _ hph, hnot, if_neg Bool.false_ne_true, State.answerCue_heard _ _ ha]
  · rw [State.resumeAt_of_resuming _ _ _ hph, State.putContext_active, State.answerCue_heard_withActive]
  · rw [State.resumeAt_of_running_or_ended _ _ _ hph, State.answerCue_heard _ _ ha]

end Sys2Proof.Machine
end

section
/-! A drive answer (R152). The number of the answer against the exchange record's decides what the drive port keeps of it;
the node state matters only afterwards, where the answer may be the last condition of NS_STARTING (R134). -/

namespace Sys2Proof.Machine

section Taking
variable {d : Drive} {e : Exchange} {number : Byte} (pos : Int) (ready : Bool)

/-- Only an AWAITING outcome is settled. -/
theorem answeredOutcome_of_ne_awaiting {o : ExchangeOutcome} (h : o ≠ .awaiting) : answeredOutcome o pos ready = o := by
  cases o with
  | awaiting => exact absurd rfl h
  | answered p => rfl
  | notReady => rfl

theorem Drive.take_of_no_record (h : d.exchange = none) : d.take number pos ready = d := by
  simp only [Drive.take, h]

variable (h : d.exchange = some e)
include h

theorem Drive.take_inTime : d.take e.number pos ready =
    { d with actual := some pos, exchange := some { e with outcome := answeredOutcome e.outcome pos ready } } := by
  simp only [Drive.take, h, if_true]

theorem Drive.take_inTime_awaiting (hout : e.outcome = .awaiting) : d.take e.number pos ready =
    { d with actual := some pos,
             exchange := some { e with outcome := if ready = true then .answered pos else .notReady } } := by
  rw [Drive.take_inTime _ _ h, hout]
  rfl

theorem Drive.take_inTime_settled (hout : e.outcome ≠ .awaiting) :
    d.take e.number pos ready = { d with actual := some pos } := by
  rw [Drive.take_inTime _ _ h, answeredOutcome_of_ne_awaiting _ _ hout, ← h]

/-- A number one below the record's is not the record's, 255 before 0 included. -/
theorem Drive.take_late (hn : number + 1 = e.number) : d.take number pos ready = { d with actual := some pos } := by
  have hne : number ≠ e.number := by bv_omega
  have hlate : number = e.number - 1 := eq_sub_of_add_eq hn
  simp only [Drive.take, h, if_neg hne, if_pos hlate]

theorem Drive.take_other (hne : number ≠ e.number) (hlate : number + 1 ≠ e.number) : d.take number pos ready = d := by
  have hnl : number ≠ e.number - 1 := fun hn => hlate (eq_sub_iff_add_eq.mp hn)
  simp only [Drive.take, h, if_neg hne, if_neg hnl]

/-- An answer taken, in time or late, leaves the copy filled: the drive has been heard. -/
theorem Drive.take_heard (hn : number = e.number ∨ number + 1 = e.number) :
    (d.take number pos ready).actual = some pos := by
  obtain rfl | hn := hn
  · rw [Drive.take_inTime _ _ h]
  · rw [Drive.take_late _ _ h hn]

end Taking

section Finishing
variable {s : State}

theorem State.finishStarting_of_ne_starting (h : s.axis.nodeState ≠ .starting) : s.finishStarting = s :=
  if_neg fun hc => h hc.1

theorem State.finishStarting_of_done (h : s.axis.nodeState = .starting) (hd : s.startingDone = true) :
    s.finishStarting = s.leaveStarting :=
  if_pos ⟨h, hd⟩

theorem State.leaveStarting_only (s : State) : s.AxisOnly s.leaveStarting := by
  unfold State.leaveStarting
  split
  · exact (s.enter_only _).trans (State.setCause_only _ _)
  · split <;> exact s.enter_only _

theorem State.finishStarting_only (s : State) : s.AxisOnly s.finishStarting := by
  unfold State.finishStarting
  split
  · exact s.leaveStarting_only
  · exact .refl s

/-- Where NS_STARTING ends: NS_BRAKED with an accepted profile, but for a start fault (R134). -/
theorem State.leaveStarting_nodeState_of_accepted (h : s.start.accepted = true) :
    s.leaveStarting.axis.nodeState = if s.axis.startFault = true then .faulted else .braked := by
  unfold State.leaveStarting
  rw [h]
  cases s.axis.startFault <;> simp [Axis.entered]

/-- With an accepted profile and the slot check over, the copy filled is the last condition of NS_STARTING. -/
theorem State.startingDone_of_heard {pos : Int} (ha : s.start.accepted = true) (hop : s.store.op = .idle)
    (hheard : s.drive.actual = some pos) : s.startingDone = true := by
  have hgood : s.start.status = .good := beq_iff_eq.mp ha
  have hdecided : s.start.decided = true := by rw [StartUp.decided, hgood]; rfl
  simp only [State.startingDone, hdecided, hop, hheard, Option.isSome_some, Bool.or_true, Bool.and_self]

/-- NS_STARTING ends when the drive is heard last. -/
theorem State.finishStarting_ends {pos : Int} (hst : s.axis.nodeState = .starting) (ha : s.start.accepted = true)
    (hop : s.store.op = .idle) (hheard : s.drive.actual = some pos) :
    s.finishStarting.axis.nodeState ≠ .starting := by
  rw [State.finishStarting_of_done hst (State.startingDone_of_heard ha hop hheard),
    State.leaveStarting_nodeState_of_accepted ha]
  cases s.axis.startFault <;> decide

end Finishing

theorem exec_driveAnswer {s : State} (hl : s.live = true) (number : Byte) (pos : Int) (ready : Bool) :
    exec (.driveAnswer number pos ready) s = .next (s.answerStep number pos ready) := by
  change whenAble s.live s _ = _
  rw [hl, whenAble_able]

theorem State.answerStep_drive (s : State) (number : Byte) (pos : Int) (ready : Bool) :
    (s.answerStep number pos ready).drive = s.drive.take number pos ready :=
  (State.finishStarting_only _).drive

/-- Outside NS_STARTING an answer reaches the drive port alone. -/
theorem State.answerStep_of_ne_starting {s : State} (h : s.axis.nodeState ≠ .starting) (number : Byte) (pos : Int)
    (ready : Bool) : s.answerStep number pos ready = { s with drive := s.drive.take number pos ready } :=
  State.finishStarting_of_ne_starting h

/-- Settles O8: the drive port by the answer's number and the outcome, then the end of NS_STARTING. -/
theorem driveAnswerByNumberAndOutcome : Obligations.DriveAnswerByNumberAndOutcome := by
  unfold Obligations.DriveAnswerByNumberAndOutcome
  intro s number pos ready hl
  refine ⟨_, exec_driveAnswer hl number pos ready, ?_⟩
  simp only [State.answerStep_drive]
  refine ⟨fun hn => State.answerStep_of_ne_starting hn number pos ready, Drive.take_of_no_record pos ready,
    fun e he => ⟨?_, ?_, Drive.take_late pos ready he, Drive.take_other pos ready he, fun hn hst ha hop => ?_⟩⟩
  · rintro rfl hout
    exact Drive.take_inTime_awaiting pos ready he hout
  · rintro rfl hout
    exact Drive.take_inTime_settled pos ready he hout
  · exact State.finishStarting_ends (s := { s with drive := s.drive.take number pos ready }) hst ha hop
      (Drive.take_heard pos ready he hn)

end Sys2Proof.Machine
end

section
/-! What the cues, an ARM and the SERVICE commands do, said once. A cue leaves the contexts, abandons one, or replaces one
by a context that differs in what a cue may change, and then answers. An ARM refuses, or makes one new context. A SERVICE
command refuses and changes the echo alone, or acts and answers RC_OK, or is a RESTART. -/

namespace Sys2Proof.Machine

/-! ## GO, HOLD, RESUME, RELEASE, CANCEL -/

/-- What a cue past the gather leaves of a context: everything but the phase, the resume gap with its deferred hold, and
release at end. A phase changes among those of a playing context alone. -/
structure Context.Cued (c d : Context) : Prop where
  preset : d.preset = c.preset
  parts : d.parts = c.parts
  serial : d.serial = c.serial
  due : d.due = c.due
  w : d.w = c.w
  w0 : d.w0 = c.w0
  wFloor : d.wFloor = c.wFloor
  r : d.r = c.r
  t : d.t = c.t
  phase : d.phase = c.phase ∨ (c.phase.playing = true ∧ d.phase.playing = true)

/-- A context before its fire and past the gather. -/
def Context.waits (c : Context) : Prop := c.phase = .armed ∨ c.phase = .posted

/-- What a cue does to the context `c` in a place, its echo apart. -/
inductive CueOutcome (s : State) (p : Place) (c : Context) : State → Prop
  | stands : CueOutcome s p c s
  | abandoned (a : AbandonReason) : CueOutcome s p c (s.abandon p a)
  | changed {d : Context} (h : c.Cued d) : CueOutcome s p c (s.putContext p (some d))
  | posted (hc : c.waits) (lead : Nat) : CueOutcome s p c (s.putContext p (some (c.post lead))).lapseIfStranded
  | rearmed (hc : c.waits) : CueOutcome s p c (s.putContext p (some c.rearm)).lapseIfStranded

section Cues
variable (s : State) (tag : Option Byte) (p : Place) (c : Context)

theorem Context.cued_phase {ph : Phase} (hc : c.phase.playing = true) (hd : ph.playing = true) (gap : Nat) :
    c.Cued { c with phase := ph, gap := gap } :=
  ⟨rfl, rfl, rfl, rfl, rfl, rfl, rfl, rfl, rfl, .inr ⟨hc, hd⟩⟩

theorem Context.cued_deferred (b : Bool) : c.Cued { c with deferred := b } :=
  ⟨rfl, rfl, rfl, rfl, rfl, rfl, rfl, rfl, rfl, .inl rfl⟩

theorem Context.cued_releaseAtEnd : c.Cued { c with releaseAtEnd := true } :=
  ⟨rfl, rfl, rfl, rfl, rfl, rfl, rfl, rfl, rfl, .inl rfl⟩

theorem Context.cued_hold (h : c.phase.playing = true) (tagged : Bool) : c.Cued (c.hold tagged) := by
  unfold Context.hold
  split
  · exact c.cued_deferred true
  · exact c.cued_phase h rfl c.gap

theorem State.goAt_outcome (tag : Byte) (lead : Nat) :
    ∃ u rc, CueOutcome s p c u ∧ s.goAt tag lead p c = u.answerCue (some tag) rc := by
  unfold State.goAt
  split
  · exact ⟨_, _, .abandoned .earlyCue, rfl⟩
  · rename_i h
    split
    · exact ⟨_, _, .posted (.inl h) lead, rfl⟩
    · exact ⟨s, _, .stands, rfl⟩
  · rename_i h
    split
    · exact ⟨_, _, .posted (.inr h) lead, rfl⟩
    · exact ⟨s, _, .stands, rfl⟩
  all_goals exact ⟨s, _, .stands, rfl⟩

theorem State.holdAt_outcome : ∃ u rc, CueOutcome s p c u ∧ s.holdAt tag p c = u.answerCue tag rc := by
  unfold State.holdAt
  split
  · exact ⟨_, _, .abandoned .earlyCue, rfl⟩
  · exact ⟨s, _, .stands, rfl⟩
  · exact ⟨_, _, .rearmed (.inr ‹_›), rfl⟩
  case h_4 h | h_5 h => exact ⟨_, _, .changed (c.cued_hold (by rw [h]; rfl) _), rfl⟩
  all_goals exact ⟨s, _, .stands, rfl⟩

theorem State.resumeAt_outcome : ∃ u rc, CueOutcome s p c u ∧ s.resumeAt tag p c = u.answerCue tag rc := by
  unfold State.resumeAt
  split
  · exact ⟨_, _, .abandoned .earlyCue, rfl⟩
  case h_4 h | h_5 h =>
    split
    · exact ⟨_, _, .changed (c.cued_phase (by rw [h]; rfl) rfl Config.resumeGap), rfl⟩
    · exact ⟨s, _, .stands, rfl⟩
  case h_6 => exact ⟨_, _, .changed (c.cued_deferred false), rfl⟩
  all_goals exact ⟨s, _, .stands, rfl⟩

theorem State.releaseAt_outcome : ∃ u rc, CueOutcome s p c u ∧ s.releaseAt tag p c = u.answerCue tag rc := by
  unfold State.releaseAt
  split
  · exact ⟨_, _, .abandoned .earlyCue, rfl⟩
  case h_2 => exact ⟨s, _, .stands, rfl⟩
  all_goals exact ⟨_, _, .changed c.cued_releaseAtEnd, rfl⟩

end Cues

/-- The place that a move id is found in holds a context (R72). -/
theorem Moves.find?_some {m : Moves} {id : Byte} {p : Place} (h : m.find? id = some p) : ∃ c, m.at p = some c := by
  have held : ∀ x : Option Context, x.any (·.moveId == id) = true → ∃ c, x = some c := by
    intro x hx
    cases x with
    | none => cases hx
    | some c => exact ⟨c, rfl⟩
  unfold Moves.find? at h
  split at h
  · cases h
    exact held _ ‹_›
  · split at h
    · cases h
      exact held _ ‹_›
    · cases h

/-! ## ARM -/

/-- A place is free for a new context (R74): the ACTIVE one with both empty, the PENDING one beside a playing context. -/
def Moves.free (m : Moves) : Place → Prop
  | .active => m.active = none ∧ m.pending = none
  | .pending => m.pending = none ∧ ∃ a, m.active = some a ∧ a.phase.playing = true

/-- What an ARM for this station does. -/
inductive ArmOutcome (s : State) (tag : Byte) : State → Prop
  | refused (rc : ResultCode) : ArmOutcome s tag (s.answer tag rc)
  | superseded (hn : s.axis.nodeState = .active) (hp : s.moves.pending = none) :
      ArmOutcome s tag (s.supersede.answer tag .notAtStart)
  | accepted (hn : s.axis.nodeState = .active) {slot : Fin 48} {p : Preset} (hs : s.store.slots[slot] = .held p)
      {u : State} (hu : u = s ∨ (u = s.supersede ∧ s.moves.pending = none)) {pl : Place} (hf : u.moves.free pl)
      (moveId : Byte) : ArmOutcome s tag ((u.acceptArm pl moveId slot p).answer tag .ok)

/-- A slot whose record can be read holds it. -/
theorem Slot.readable_ok {sl : Slot} {p : Preset} (h : sl.readable = .ok p) : sl = .held p := by
  cases sl with
  | held q => cases h; rfl
  | empty | writing | erasing | invalid => cases h

theorem Moves.place_asActive {m : Moves} {id : Byte} {sp : Bool} (h : m.place id sp = .asActive) :
    m.active = none ∧ m.pending = none := by
  unfold Moves.place at h
  split at h
  · exact ⟨‹_›, ‹_›⟩
  · repeat' split at h
    all_goals cases h
  · cases h

theorem Moves.place_superseding {m : Moves} {id : Byte} {sp : Bool} (h : m.place id sp = .superseding) :
    ∃ a, m.active = some a ∧ a.phase.fired = false ∧ m.pending = none := by
  unfold Moves.place at h
  split at h
  · cases h
  · rename_i a ha hp
    refine ⟨a, ha, ?_, hp⟩
    split at h
    · simpa using ‹(!a.phase.fired) = true›
    · repeat' split at h
      all_goals cases h
  · cases h

theorem Moves.place_asPending {m : Moves} {id : Byte} {sp : Bool} (h : m.place id sp = .asPending) :
    m.pending = none ∧ ∃ a, m.active = some a ∧ a.phase.playing = true := by
  unfold Moves.place at h
  split at h
  · cases h
  · rename_i a ha hp
    refine ⟨hp, a, ha, ?_⟩
    split at h
    · cases h
    · split at h
      · cases h
      · simpa using ‹¬(!a.phase.playing) = true›
  · cases h

theorem State.armPlaced_outcome {s : State} (hn : s.axis.nodeState = .active) {slot : Fin 48} {p : Preset}
    (hs : s.store.slots[slot] = .held p) (tag moveId : Byte) (splice : Bool) :
    ArmOutcome s tag (s.armPlaced tag moveId slot p splice) := by
  unfold State.armPlaced State.armActive
  split
  · split
    · exact .accepted hn hs (.inl rfl) (pl := .active) (Moves.place_asActive ‹_›) moveId
    · exact .refused _
  · obtain ⟨a, ha, -, hp⟩ := Moves.place_superseding ‹_›
    split
    · refine .accepted hn hs (.inr ⟨rfl, hp⟩) (pl := .active) ?_ moveId
      rw [State.supersede_held ha]
      exact ⟨rfl, hp⟩
    · exact .superseded hn hp
  · exact .accepted hn hs (.inl rfl) (pl := .pending) (Moves.place_asPending ‹_›) moveId
  · exact .refused _

theorem State.armTested_outcome (s : State) (tag moveId slotByte : Byte) (splice : Bool) :
    ArmOutcome s tag (s.armTested tag moveId slotByte splice) := by
  unfold State.armTested
  split
  · exact .refused _
  · rename_i hn
    split
    · exact .refused _
    · split
      · exact .refused _
      · split
        · exact .refused _
        · exact State.armPlaced_outcome (not_not.mp hn) (Slot.readable_ok ‹_›) tag moveId splice

/-! ## SERVICE commands -/

/-- What a SERVICE command that passed its tests does, its echo apart. -/
inductive ServiceAct (s : State) (tag : Byte) : State → Prop
  | queried (page : Byte) : ServiceAct s tag (s.hand .service (plain (.descriptor page (s.pageContent page))))
  | captured (h : s.store.buffer.length < Config.keysMax) (dur : Nat) (easing : Easing) :
      ServiceAct s tag (s.setBuffer (s.store.buffer ++ [capturedKey s.store.buffer s.ownPos dur easing]))
  | undone : ServiceAct s tag (s.setBuffer s.store.buffer.dropLast)
  | emptied : ServiceAct s tag (s.setBuffer [])
  | committed (h : 2 ≤ s.store.buffer.length) (slot : Fin 48) (auto protect : Bool) (fIn fOut dwell sTrim : Nat) :
      ServiceAct s tag (s.beginOp slot .writing (.writing ⟨.commit, slot, tag, 0⟩
        (formedRecord s.store.buffer auto protect fIn fOut dwell sTrim)))
  | deleted (slot : Fin 48) : ServiceAct s tag (s.beginErase slot tag)
  | unprotected (slot : Fin 48) : ServiceAct s tag (s.beginUnprotect slot tag)
  | approached (hn : s.axis.nodeState = .active) (hm : s.moves.none? = true) {slot : Fin 48} {p : Preset}
      (hs : s.store.slots[slot] = .held p) : ServiceAct s tag (s.beginApproach slot p)
  | parked (hn : s.axis.nodeState = .active) (mode : ParkMode) : ServiceAct s tag (s.enter (ParkMode.target mode))
  | unparked (hn : s.axis.nodeState = .braked) : ServiceAct s tag (s.enter .brakeRelease)
  | unparking (hn : s.axis.nodeState = .holdPark) :
      ServiceAct s tag { s with axis := { s.axis with unparkPending := true } }
  | cleared (h : s.clearActs = true) : ServiceAct s tag s.unlocked.cleared
  | unlocked : ServiceAct s tag s.unlocked

/-- What a SERVICE command for this station does. -/
inductive ServiceOutcome (s : State) (tag : Byte) : State → Prop
  | refused {rc : ResultCode} (h : rc ≠ .ok) : ServiceOutcome s tag (s.answer tag rc)
  | done {u : State} (h : ServiceAct s tag u) : ServiceOutcome s tag (u.answer tag .ok)
  | restarted (straps : Station) : ServiceOutcome s tag (s.begun straps false)

section Service
variable (s : State) (tag : Byte)

/-- Tests refuse with one of their codes, or lead to the act. -/
theorem State.tested_outcome {ts : List (Bool × ResultCode)} {act : State → State} (hok : ∀ x ∈ ts, x.2 ≠ .ok)
    (h : (∀ x ∈ ts, x.1 = true) → ServiceAct s tag (act s)) : ServiceOutcome s tag (s.tested tag ts act) := by
  rcases s.tested_cases tag ts act with ⟨x, hx, -, e⟩ | ⟨hp, e⟩ <;> rw [e]
  · exact .refused (hok x hx)
  · exact .done (h hp)

theorem Slot.readable_error {sl : Slot} {rc : ResultCode} (h : sl.readable = .error rc) : rc ≠ .ok := by
  cases sl with
  | held q => cases h
  | empty | writing | erasing | invalid => cases h; decide

theorem State.queryAt_outcome (page : Byte) : ServiceOutcome s tag (s.queryAt tag page) :=
  s.tested_outcome tag (by simp) fun _ => .queried page

theorem State.captureAt_outcome (dur : Nat) (easing : Easing) : ServiceOutcome s tag (s.captureAt tag dur easing) := by
  refine s.tested_outcome tag (by simp [State.bufferTests]) fun h => ?_
  exact .captured (of_decide_eq_true (h (decide (s.store.buffer.length < Config.keysMax), .bufferFull) (by simp))) dur easing

theorem State.undo_outcome : ServiceOutcome s tag
    (s.tested tag s.bufferTests fun u => u.setBuffer u.store.buffer.dropLast) :=
  s.tested_outcome tag (by simp [State.bufferTests]) fun _ => .undone

theorem State.editClear_outcome : ServiceOutcome s tag (s.tested tag s.bufferTests fun u => u.setBuffer []) :=
  s.tested_outcome tag (by simp [State.bufferTests]) fun _ => .emptied

theorem State.commitAt_outcome (slotByte : Byte) (auto protect : Bool) (fIn fOut dwell sTrim : Nat) :
    ServiceOutcome s tag
      (s.commitAt tag slotByte (formedRecord s.store.buffer auto protect fIn fOut dwell sTrim)) := by
  unfold State.commitAt
  split
  · exact .refused (by decide)
  · refine s.tested_outcome tag (by simp) fun h => ?_
    exact .committed (of_decide_eq_true (h (decide (2 ≤ s.store.buffer.length), .bufferShort) (by simp))) ..

theorem State.deleteAt_outcome (slotByte : Byte) : ServiceOutcome s tag (s.deleteAt tag slotByte) := by
  unfold State.deleteAt
  split
  · exact .refused (by decide)
  · exact s.tested_outcome tag (by simp) fun _ => .deleted _

theorem State.unprotectAt_outcome (slotByte : Byte) : ServiceOutcome s tag (s.unprotectAt tag slotByte) := by
  unfold State.unprotectAt
  split
  · exact .refused (by decide)
  · exact s.tested_outcome tag (by simp) fun _ => .unprotected _

theorem State.gotoStartAt_outcome (slotByte : Byte) : ServiceOutcome s tag (s.gotoStartAt tag slotByte) := by
  unfold State.gotoStartAt
  split
  · exact .refused (by decide)
  · rename_i hn
    split
    · exact .refused (by decide)
    · split
      · exact .refused (Slot.readable_error ‹_›)
      · refine s.tested_outcome tag (by simp) fun h => ?_
        exact .approached (not_not.mp hn) (h (s.moves.none?, .busy) (by simp)) (Slot.readable_ok ‹_›)

theorem State.park_outcome (mode : ParkMode) : ServiceOutcome s tag
    (s.tested tag [(decide (s.axis.nodeState = .active), .refusedState), (s.still, .notStill)]
      fun u => u.enter (ParkMode.target mode)) :=
  s.tested_outcome tag (by simp) fun h =>
    .parked (of_decide_eq_true (h (decide (s.axis.nodeState = .active), .refusedState) (by simp))) mode

theorem State.unparkAt_outcome : ServiceOutcome s tag (s.unparkAt tag) := by
  unfold State.unparkAt
  split
  · exact s.tested_outcome tag (by simp) fun _ => .unparked ‹_›
  · exact .done (.unparking ‹_›)
  all_goals exact .refused (by decide)

theorem State.clearAt_outcome : ServiceOutcome s tag (s.clearAt tag) := by
  unfold State.clearAt
  split
  · exact .done (.cleared ‹_›)
  · split
    · exact .done .unlocked
    · exact .refused (by decide)

theorem State.restartAt_outcome (straps : Station) : ServiceOutcome s tag (s.restartAt tag straps) := by
  unfold State.restartAt
  split
  · exact .refused (by decide)
  · split
    · exact .refused (by decide)
    · exact .restarted straps

end Service

end Sys2Proof.Machine
end

section
/-! What a command can do, said once. A command is an event that comes about, with the reaction of the blocks it concerns,
or a frame that arrives; `Effect` lists the outcomes of all of them, `Arrival` those of the frames. Every invariant is then
a case analysis over these two, and no proof about all commands goes through the dispatch again. -/

namespace Sys2Proof.Machine

/-- What an arriving frame can do to a node that has heard it. -/
inductive Arrival (s : State) : State → Prop
  | unconcerned : Arrival s s
  | halt : Arrival s s.halt
  | surge (src : Station) (own : Bool) : Arrival s (s.claimArrives src own)
  | arm {tag : Byte} {t : State} (h : ArmOutcome s tag t) : Arrival s t
  | join (src : Station) (own : Bool) (moveId : Byte) : Arrival s (s.joinAt src own moveId)
  | cue {p : Place} {c : Context} (hc : s.moves.at p = some c) {u : State} (h : CueOutcome s p c u)
      (tag : Option Byte) (rc : ResultCode) : Arrival s (u.answerCue tag rc)
  | stick (src : Station) (enable : Bool) (channels : List Channel) : Arrival s (s.stickArrives src enable channels)
  | state (src : Station) (own : Bool) (r : StateReport) : Arrival s (s.stateArrives src own r)
  | service {tag : Byte} {t : State} (h : ServiceOutcome s tag t) : Arrival s t

/-- What a command, or the node's own background, can do to a state. -/
inductive Effect (s : State) : State → Prop
  | nothing : Effect s s
  | background : Effect s s.background
  | expiry (input : ExpiryInput) : Effect s (s.expiry input)
  | reaction (input : ExpiryInput) (b : Block) : Effect s (s.react input b)
  | begun (straps : Station) (stepFourDone : Bool) : Effect s (s.begun straps stepFourDone)
  | held (stepFourDone : Bool) : Effect s (s.held stepFourDone)
  | profileDecision (answered : List Byte) : Effect s (s.profileStep answered)
  | slotCheckEnd : Effect s s.slotStep
  | driveAnswer (number : Byte) (position : Int) (ready : Bool) : Effect s (s.answerStep number position ready)
  | storeCompletion (good : Bool) : Effect s (s.storeCompletes good)
  | lineIdle (others : List Byte) : Effect s { s with link := s.link.idle s.start.station others }
  | departure : Effect s s.departs
  | unacknowledged : Effect s s.returns
  | arrival {t : State} (h : Arrival s.heard t) : Effect s t

section Reaching
variable {s : State}

theorem whenAble_effect {able : Bool} {t : State} (h : Effect s t) :
    ∃ u, whenAble able s t = .next u ∧ Effect s u := by
  cases able
  · exact ⟨s, rfl, .nothing⟩
  · exact ⟨t, rfl, h⟩

/-- An expiry's operand for the reactions that read none of it. -/
def unreadInput : ExpiryInput := ⟨⟨false, false, false, false, false⟩, [], false⟩

/-- A timed event is the reaction of the block that owns it (log entry 1). -/
theorem reaction_effect {able : Bool} (input : ExpiryInput) (b : Block) :
    ∃ u, whenAble able s (s.react input b) = .next u ∧ Effect s u :=
  whenAble_effect (.reaction input b)

theorem arrive_effect {rx : Rx} {f : Frame} {act : Bool → State → State} (h : ∀ own, Arrival s.heard (act own s.heard)) :
    ∃ u, s.arrive rx f act = .next u ∧ Effect s u :=
  whenAble_effect (.arrival (h _))

theorem service_effect {h : SvcHead} {op : Operation} {act : State → State}
    (ha : ServiceOutcome s.heard h.tag (act s.heard)) : ∃ u, s.service h op act = .next u ∧ Effect s u := by
  refine arrive_effect fun _ => ?_
  split
  · exact .service ha
  · exact .unconcerned

/-- A cue other than ARM and JOIN concerns the context that holds its move id, or no one (R72). -/
theorem cueAt_arrival {moveId : Byte} {act : Place → Context → State} {tag : Option Byte}
    (h : ∀ p c, ∃ u rc, CueOutcome s p c u ∧ act p c = u.answerCue tag rc) : Arrival s (s.cueAt moveId act) := by
  unfold State.cueAt
  split
  · exact .unconcerned
  · split
    · exact .unconcerned
    · split
      · rename_i p _ _ c hc
        obtain ⟨u, rc, hu, e⟩ := h p c
        rw [e]
        exact .cue hc hu tag rc
      · exact .unconcerned

theorem cancelAt_arrival (s : State) (tag : Option Byte) (moveId : Byte) : Arrival s (s.cancelAt tag moveId) := by
  unfold State.cancelAt
  split
  · exact .unconcerned
  · obtain ⟨c, hc⟩ := Moves.find?_some ‹_›
    exact .cue hc (.abandoned .cancelled) tag .ok

theorem lastStep_effect (last : StartingLast) : Effect s (s.lastStep last) := by
  cases last with
  | profileDecision answered => exact .profileDecision answered
  | slotCheckEnd => exact .slotCheckEnd
  | driveAnswer number position ready => exact .driveAnswer number position ready

end Reaching

/-- Every command answers a next state, and it is one of the effects. -/
theorem exec_effect (i : Instr) (s : State) : ∃ t, exec i s = .next t ∧ Effect s t := by
  cases i with
  | periodExpiry input => exact whenAble_effect (.expiry input)
  | gatherExpiry | armExpiry | moveFire | holdRampEnd | resumeRampEnd | resumeGapEnd | playbackFinish | dwellEnd
  | fadeOutEnd => exact reaction_effect unreadInput .moves
  | surgeEntryExpiry | grantEnd => exact reaction_effect unreadInput .surge
  | peerStale | stickStale => exact reaction_effect unreadInput .peers
  | storeTimeLimit stepFourDone => exact reaction_effect { unreadInput with stepFourDone := stepFourDone } .store
  | brakeTimeout | brakeSettleEnd => exact reaction_effect unreadInput .axis
  | driveSilent | followingError | linkStarved => exact reaction_effect unreadInput .setpoint
  | estopActive levels | driveFaultActive levels => exact reaction_effect { unreadInput with levels := levels } .lines
  | powerOnReset straps stepFourDone =>
    refine ⟨_, rfl, ?_⟩
    split
    · exact .held stepFourDone
    · exact .begun straps stepFourDone
  | resetLine edge =>
    cases edge with
    | held stepFourDone => exact ⟨_, rfl, .held stepFourDone⟩
    | released straps stepFourDone => exact ⟨_, rfl, .begun straps stepFourDone⟩
  | profileDecision answered => exact whenAble_effect (.profileDecision answered)
  | slotCheckEnd => exact whenAble_effect .slotCheckEnd
  | startingEnd last => exact whenAble_effect (lastStep_effect last)
  | driveAnswer number position ready => exact whenAble_effect (.driveAnswer number position ready)
  | storeCompletion good => exact whenAble_effect (.storeCompletion good)
  | lineIdle others => exact whenAble_effect (.lineIdle others)
  | frameDeparture => exact whenAble_effect .departure
  | frameUnacknowledged => exact whenAble_effect .unacknowledged
  | halt => unfold exec execHalt; exact arrive_effect fun _ => .halt
  | surge rx => unfold exec execSurge; exact arrive_effect fun own => .surge rx.src own
  | arm rx tag moveId slot targets splice =>
    unfold exec execArm
    refine arrive_effect fun _ => ?_
    split
    · exact .arm (State.armTested_outcome ..)
    · exact .unconcerned
  | join rx moveId => unfold exec execJoin; exact arrive_effect fun own => .join rx.src own moveId
  | go => unfold exec execGo; exact arrive_effect fun _ => cueAt_arrival fun _ _ => State.goAt_outcome ..
  | hold => unfold exec execHold; exact arrive_effect fun _ => cueAt_arrival fun _ _ => State.holdAt_outcome ..
  | resume => unfold exec execResume; exact arrive_effect fun _ => cueAt_arrival fun _ _ => State.resumeAt_outcome ..
  | release => unfold exec execRelease; exact arrive_effect fun _ => cueAt_arrival fun _ _ => State.releaseAt_outcome ..
  | cancel => unfold exec execCancel; exact arrive_effect fun _ => cancelAt_arrival ..
  | stick rx enable channels => unfold exec execStick; exact arrive_effect fun _ => .stick rx.src enable channels
  | stateArrival rx report => unfold exec execStateArrival; exact arrive_effect fun own => .state rx.src own report
  | descriptorArrival => unfold exec execDescriptorArrival; exact arrive_effect fun _ => .unconcerned
  | query => unfold exec execQuery; exact service_effect (State.queryAt_outcome ..)
  | capture => unfold exec execCapture; exact service_effect (State.captureAt_outcome ..)
  | undo => unfold exec execUndo; exact service_effect (State.undo_outcome ..)
  | editClear => unfold exec execEditClear; exact service_effect (State.editClear_outcome ..)
  | commit => unfold exec execCommit; exact service_effect (State.commitAt_outcome ..)
  | delete => unfold exec execDelete; exact service_effect (State.deleteAt_outcome ..)
  | unprotect => unfold exec execUnprotect; exact service_effect (State.unprotectAt_outcome ..)
  | gotoStart => unfold exec execGotoStart; exact service_effect (State.gotoStartAt_outcome ..)
  | park => unfold exec execPark; exact service_effect (State.park_outcome ..)
  | unpark => unfold exec execUnpark; exact service_effect (State.unparkAt_outcome ..)
  | clear => unfold exec execClear; exact service_effect (State.clearAt_outcome ..)
  | restart => unfold exec execRestart; exact service_effect (State.restartAt_outcome ..)

/-- The queue of commands replaced. -/
def State.withQueue (s : State) (q : List Instr) : State := { s with pending := q }

/-- A step is an effect on the state with some rest of its queue. -/
theorem step_effect {s t : State} (h : step s = .next t) : ∃ q, Effect (s.withQueue q) t := by
  unfold step at h
  split at h
  · cases h
    exact ⟨s.pending, .background⟩
  · rename_i c rest _
    obtain ⟨u, hu, he⟩ := exec_effect c (s.withQueue rest)
    cases hu.symm.trans h
    exact ⟨rest, he⟩

/-- What every effect keeps, a step keeps, for what does not read the queue of commands. -/
theorem step_keeps {P : State → Prop} (hq : ∀ {s} q, P s → P (s.withQueue q)) (he : ∀ {s t}, P s → Effect s t → P t)
    {s t : State} (hs : P s) (h : step s = .next t) : P t := by
  obtain ⟨q, h⟩ := step_effect h
  exact he (hq q hs) h

end Sys2Proof.Machine
end

section
/-! What the events and the reactions of the blocks touch, said once each, in the form the invariants ask for: an outcome
out of a few, or what every part of a reaction keeps. -/

namespace Sys2Proof.Machine

/-! ## The store -/

/-- `t` is `s` but for the store and the echo. -/
structure State.StoreOnly (s t : State) : Prop where
  start : t.start = s.start
  limiter : t.limiter = s.limiter
  surge : t.surge = s.surge
  moves : t.moves = s.moves
  axis : t.axis = s.axis
  owed : t.link.owed = s.link.owed
  load : ∀ k, t.link.load k = s.link.load k

theorem State.StoreOnly.refl (s : State) : s.StoreOnly s := ⟨rfl, rfl, rfl, rfl, rfl, rfl, fun _ => rfl⟩

theorem State.StoreOnly.ofStore (s : State) (st : Store) : s.StoreOnly { s with store := st } :=
  ⟨rfl, rfl, rfl, rfl, rfl, rfl, fun _ => rfl⟩

theorem State.storeFails_only (s : State) (op : OpRecord) : s.StoreOnly (s.storeFails op) :=
  ⟨rfl, rfl, rfl, rfl, rfl, rfl, by simp⟩

theorem State.beginErase_only (s : State) (slot : Fin 48) (tag : Byte) : s.StoreOnly (s.beginErase slot tag) := by
  unfold State.beginErase
  split
  · exact .refl s
  · exact .ofStore s _

theorem State.beginUnprotect_only (s : State) (slot : Fin 48) (tag : Byte) :
    s.StoreOnly (s.beginUnprotect slot tag) := by
  unfold State.beginUnprotect
  split
  · split
    · exact .ofStore s _
    · exact .refl s
  all_goals exact .refl s

theorem State.unlocked_only (s : State) : s.StoreOnly s.unlocked := by
  unfold State.unlocked
  split
  · exact .ofStore s _
  · exact .refl s

theorem State.background_only (s : State) : s.StoreOnly s.background := by
  unfold State.background
  split
  · split
    · split
      · exact .ofStore s _
      · exact .refl s
    · exact .refl s
  all_goals exact .refl s

theorem State.storeCompletes_only (s : State) (good : Bool) : s.StoreOnly (s.storeCompletes good) := by
  unfold State.storeCompletes
  split
  · exact .refl s
  · split
    · exact .ofStore s _
    · exact s.storeFails_only _

theorem State.storeReaction_only (s : State) (b : Bool) : s.StoreOnly (s.storeReaction b) := by
  obtain ⟨-, hs, -, -, hl, hg, hm, ha, -, ho, hk⟩ := s.storeReaction_frame b
  exact ⟨hs, hl, hg, hm, ha, ho, hk⟩

/-- The end of the slot check is a change of the store, and then perhaps the end of NS_STARTING. -/
theorem State.slotStep_outcome (s : State) :
    s.slotStep = s ∨ ∃ st, s.slotStep = ({ s with store := st }).finishStarting := by
  unfold State.slotStep
  split
  · exact .inr ⟨_, rfl⟩
  all_goals exact .inl rfl

/-! ## The peer table and the stick record -/

theorem State.stickArrives_eq (s : State) (src : Station) (enable : Bool) (channels : List Channel) :
    ∃ p, s.stickArrives src enable channels = { s with peers := p } := by
  unfold State.stickArrives
  split
  · split
    · exact ⟨_, rfl⟩
    · exact ⟨s.peers, rfl⟩
  · exact ⟨s.peers, rfl⟩

/-- What the writing of an entry and a stale notice keep, the aging of the entries keeps. -/
theorem State.agePeer_keeps {P : State → Prop} (hw : ∀ {s} n e, P s → P (s.writeEntry n e))
    (hn : ∀ {s} n, P s → P (s.staleNotice n)) {s : State} (n : Station) (h : P s) : P (s.agePeer n) := by
  unfold State.agePeer
  split
  · exact h
  · dsimp only
    split
    · exact hn n (hw n _ h)
    · exact hw n _ h

theorem State.peerReaction_keeps {P : State → Prop} (hw : ∀ {s} n e, P s → P (s.writeEntry n e))
    (hn : ∀ {s} n, P s → P (s.staleNotice n)) (hs : ∀ {s}, P s → P s.ageStick) {s : State} (h : P s) :
    P s.peerReaction := by
  have hall : ∀ (ns : List Station) {u : State}, P u → P (ns.foldl State.agePeer u) := by
    intro ns
    induction ns with
    | nil => exact fun hu => hu
    | cons n ns ih => exact fun hu => ih (State.agePeer_keeps hw hn n hu)
  exact hs (hall allStations h)

/-! ## The axis state machine, the lines and the reports -/

/-- What the axis state machine's reaction to an expiry can be. -/
inductive AxisOutcome (s : State) : State → Prop
  | stands : AxisOutcome s s
  | counted {a : Axis} (hc : a.cause = s.axis.cause) : AxisOutcome s { s with axis := a }
  | entered (new : NodeState) : AxisOutcome s (s.enter new)
  | faulted (c : FaultCause) : AxisOutcome s (s.faulting c)

theorem State.brakeWait_outcome (s : State) : AxisOutcome s s.brakeWait := by
  unfold State.brakeWait
  split
  · exact .faulted _
  · exact .counted rfl

theorem State.axisReaction_outcome (s : State) : AxisOutcome s s.axisReaction := by
  unfold State.axisReaction
  split
  · unfold State.releaseStep
    split
    · split
      · exact .entered _
      · exact .counted rfl
    · split
      · exact .counted rfl
      · exact s.brakeWait_outcome
  · unfold State.engageStep
    split
    · exact s.brakeWait_outcome
    · exact .entered _
  · split
    · exact .entered _
    · exact .stands
  all_goals exact .stands

/-- What the line sampling keeps: what the samples keep, and an ESTOP's HALT frame and halt, and a drive fault. -/
theorem State.lineReaction_keeps {P : State → Prop} (hl : ∀ {s} lines, P s → P { s with drive := { s.drive with lines := lines } })
    (he : ∀ {s}, P s → P s.estopPressed) (hf : ∀ {s} c, P s → P (s.faulting c)) {s : State} (h : P s)
    (levels : Lines Bool) : P (s.lineReaction levels) := by
  have hp : ∀ {s : State} {b : Prop} [Decidable b], P s → P (if b then s.estopPressed else s) := by
    intro s b _ hs
    split
    · exact he hs
    · exact hs
  unfold State.lineReaction
  dsimp only
  split
  · exact hf _ (hp (hl _ h))
  · exact hp (hl _ h)

/-- What the reports of a hand-over keep. -/
theorem State.reportsTaken_keeps {P : State → Prop} (hf : ∀ {s} c, P s → P (s.faulting c)) (hs : ∀ {s}, P s → P s.starved)
    {s : State} (h : P s) (before : State) : P (s.reportsTaken before) := by
  have hr : ∀ {u : State} (b : Bool) (c : FaultCause), P u → P (if b = true then u.faulting c else u) := by
    intro u b c hu
    split
    · exact hf c hu
    · exact hu
  unfold State.reportsTaken
  dsimp only
  split
  · exact hs (hr _ _ (hr _ _ h))
  · exact hr _ _ (hr _ _ h)

/-- What the end of NS_STARTING keeps. -/
theorem State.finishStarting_keeps {P : State → Prop} (he : ∀ {s} n, P s → P (s.enter n))
    (hc : ∀ {s} c, P s → P (s.setCause c)) {s : State} (h : P s) : P s.finishStarting := by
  unfold State.finishStarting
  split
  · unfold State.leaveStarting
    split
    · exact hc _ (he _ h)
    · split <;> exact he _ h
  · exact h

/-! ## The node's own frame -/

/-- The link once the node's frame has left it. -/
def Link.gone (l : Link) (o : OnLine) : Link := { l with onLine := none, departed := some o.item.frame }

/-- What the departure of the node's frame `o` can be (R59, R77, R161, R169). -/
inductive Departure (s : State) (o : OnLine) : State → Prop
  | unread : Departure s o { s with link := s.link.gone o }
  | claim (h : s.surge.status = .queued) :
      Departure s o { s with link := s.link.gone o, surge := { s.surge with status := .sent } }
  | join : Departure s o { s with
      link := s.link.gone o
      moves := { s.moves with
        active := s.moves.active.map (Context.joinSent o.item.ctx)
        pending := s.moves.pending.map (Context.joinSent o.item.ctx) } }
  | state {c : FaultCause} (h : c = s.axis.cause ∨ c = .config) :
      Departure s o { s with link := { s.link.gone o with owed := 0 }, axis := { s.axis with cause := c } }

theorem State.departs_outcome (s : State) : s.departs = s ∨ ∃ o, Departure s o s.departs := by
  unfold State.departs
  split
  · exact .inl rfl
  · rename_i o _
    refine .inr ⟨o, ?_⟩
    unfold State.departureReported
    split
    · split
      · rename_i h
        exact .claim h.1
      · exact .unread
    · exact .join
    · dsimp only
      split
      · exact .state (.inr rfl)
      · exact .state (.inl rfl)
    all_goals exact .unread

/-- What the unacknowledged end of the node's frame can be (R166, R167, R168): a change of the link, or one by which the
link is starved. -/
theorem State.returns_outcome (s : State) : ∃ l, s.returns = { s with link := l } ∨
    s.returns = ({ s with link := l } : State).starved := by
  unfold State.returns
  split
  · exact ⟨s.link, .inl rfl⟩
  · split
    · unfold State.stateReturns
      split
      · exact ⟨_, .inl rfl⟩
      · dsimp only
        split
        · exact ⟨_, .inr rfl⟩
        · exact ⟨_, .inl rfl⟩
    all_goals exact ⟨_, .inl rfl⟩

/-! ## The move engine -/

theorem CueOutcome.movesOnly {s u : State} {p : Place} {c : Context} (h : CueOutcome s p c u) : s.MovesOnly u := by
  cases h with
  | stands => exact .refl s
  | abandoned a => exact s.abandon_only p a
  | changed => exact s.putContext_only ..
  | posted | rearmed => exact (s.putContext_only ..).trans (State.lapseIfStranded_only _)

theorem State.acceptArm_only (s : State) (pl : Place) (moveId : Byte) (slot : Fin 48) (p : Preset) :
    s.MovesOnly (s.acceptArm pl moveId slot p) :=
  ((s.putContext_only pl _).trans (.ofMoves _ _)).trans (State.hand_only _ _ _)

theorem State.beginApproach_only (s : State) (slot : Fin 48) (p : Preset) : s.MovesOnly (s.beginApproach slot p) :=
  .ofMoves s _

/-- A JOIN changes the context that gathers under its move id (R77), or nothing. -/
theorem State.joinAt_outcome (s : State) (src : Station) (own : Bool) (moveId : Byte) :
    s.joinAt src own moveId = s ∨ ∃ p c, s.moves.at p = some c ∧ c.phase = .gather ∧
      s.joinAt src own moveId = s.putContext p (some (c.joined src own)) := by
  unfold State.joinAt
  split
  · exact .inl rfl
  · split
    · rename_i c hc
      split
      · exact .inr ⟨_, c, hc, ‹_›, rfl⟩
      · exact .inl rfl
    · exact .inl rfl

theorem State.joinAt_only (s : State) (src : Station) (own : Bool) (moveId : Byte) :
    s.MovesOnly (s.joinAt src own moveId) := by
  obtain e | ⟨p, c, -, -, e⟩ := s.joinAt_outcome src own moveId <;> rw [e]
  · exact .refl s
  · exact s.putContext_only ..

theorem Moves.none?_of_at {m : Moves} {p : Place} {c : Context} (h : m.at p = some c) : m.none? = false := by
  rw [Bool.eq_false_iff]
  intro hn
  obtain ⟨ha, hp⟩ := (Moves.none?_iff _).mp hn
  cases p
  · cases ha.symm.trans h
  · cases hp.symm.trans h

end Sys2Proof.Machine
end

section
/-! The axis invariant through every command. -/

namespace Sys2Proof.Machine

namespace AxisSafe
variable {s t : State}

theorem storeOnly (h : AxisSafe s) (ho : s.StoreOnly t) : AxisSafe t :=
  h.congr ho.axis ho.limiter ho.start (by rw [ho.moves]; exact id)

theorem answer (h : AxisSafe s) (tag : Byte) (rc : ResultCode) : AxisSafe (s.answer tag rc) := h.congr rfl rfl rfl id

theorem answerCue (h : AxisSafe s) (tag : Option Byte) (rc : ResultCode) : AxisSafe (s.answerCue tag rc) := by
  cases tag with
  | none => exact h
  | some tag => exact h.answer tag rc

/-- A state of motion, or one next to it, is entered with an accepted profile. -/
theorem leave (h : AxisSafe s) {n : NodeState} (hn : s.axis.nodeState = n) (h1 : n ≠ .starting) (h2 : n ≠ .configFault)
    (new : NodeState) : AxisSafe (s.enter new) :=
  h.enter (h.decided (hn ▸ h1)) fun _ => h.accepted (hn ▸ h1) (hn ▸ h2)

/-! ## Arrivals -/

theorem arm (h : AxisSafe s) {tag : Byte} (ho : ArmOutcome s tag t) : AxisSafe t := by
  cases ho with
  | refused rc => exact h.answer tag rc
  | superseded hn _ => exact (h.inActive s.supersede_only hn).answer tag _
  | accepted hn hs hu hf moveId =>
    refine AxisSafe.answer (h.inActive ?_ hn) tag _
    obtain rfl | ⟨rfl, -⟩ := hu
    · exact State.acceptArm_only ..
    · exact s.supersede_only.trans (State.acceptArm_only ..)

/-- A CLEAR that acts leaves a resting state for the one of R147. -/
theorem cleared (h : AxisSafe s) : AxisSafe s.cleared := by
  unfold State.cleared
  split
  · rename_i hn
    have hc : AxisSafe { s with axis := { s.axis with haltLatch := false, cause := .none } } :=
      h.ofAxis rfl rfl rfl h.2.1
    exact hc.leave hn (by decide) (by decide) _
  · exact (h.setCause _).leave ‹_› (by decide) (by decide) _
  · exact h.ofAxis rfl rfl rfl h.2.1
  all_goals exact h

theorem serviceAct (h : AxisSafe s) {tag : Byte} (ho : ServiceAct s tag t) : AxisSafe t := by
  cases ho with
  | queried | captured | undone | emptied | committed => exact h.congr rfl rfl rfl id
  | deleted slot => exact h.storeOnly (s.beginErase_only slot tag)
  | unprotected slot => exact h.storeOnly (s.beginUnprotect_only slot tag)
  | approached hn => exact h.inActive (s.beginApproach_only ..) hn
  | parked hn | unparked hn => exact h.leave hn (by decide) (by decide) _
  | unparking hn =>
    refine h.ofAxis rfl rfl rfl ?_
    obtain ⟨h1, -, h3, h4⟩ := h.2.1
    exact ⟨h1, fun x => absurd hn x, h3, h4⟩
  | cleared => exact (h.storeOnly s.unlocked_only).cleared
  | unlocked => exact h.storeOnly s.unlocked_only

theorem service (h : AxisSafe s) {tag : Byte} (ho : ServiceOutcome s tag t) : AxisSafe t := by
  cases ho with
  | refused => exact h.answer ..
  | done ha => exact (h.serviceAct ha).answer ..
  | restarted straps => exact AxisSafe.atStart ..

theorem stateArrives (h : AxisSafe s) (src : Station) (own : Bool) (r : StateReport) :
    AxisSafe (s.stateArrives src own r) := by
  unfold State.stateArrives
  split
  · exact h.clash
  · have hw : AxisSafe (s.writeEntry src (entryOf r)) := h.congr rfl rfl rfl id
    refine hw.movesOnly (State.updateNotice_only _ _) fun hn => ?_
    rw [State.updateNotice_idle hn]
    exact hn

theorem arrival (h : AxisSafe s) (ha : Arrival s t) : AxisSafe t := by
  cases ha with
  | unconcerned => exact h
  | halt => exact h.halt
  | surge => exact h.congr rfl rfl rfl id
  | arm ho => exact h.arm ho
  | join src own moveId =>
    obtain e | ⟨p, c, hc, -, e⟩ := s.joinAt_outcome src own moveId <;> rw [e]
    · exact h
    · exact h.withContext (s.putContext_only ..) (Moves.none?_of_at hc)
  | cue hc ho tag rc => exact (h.withContext ho.movesOnly (Moves.none?_of_at hc)).answerCue tag rc
  | stick src enable channels =>
    obtain ⟨p, e⟩ := s.stickArrives_eq src enable channels
    rw [e]
    exact h.congr rfl rfl rfl id
  | state => exact h.stateArrives ..
  | service ho => exact h.service ho

/-! ## Events -/

theorem held (stepFourDone : Bool) : AxisSafe (s.held stepFourDone) := by
  obtain ⟨h1, h2, h3, h4, h5, h6⟩ : AxisSafe (s.begun 0 stepFourDone) := AxisSafe.atStart ..
  exact ⟨h1, h2, h3, h4, h5, h6⟩

theorem departs (h : AxisSafe s) : AxisSafe s.departs := by
  obtain e | ⟨o, ho⟩ := s.departs_outcome
  · rw [e]
    exact h
  · have hl : ∀ l, AxisSafe { s with link := l } := fun _ => h.congr rfl rfl rfl id
    generalize s.departs = u at ho ⊢
    cases ho with
    | unread | claim => exact h.congr rfl rfl rfl id
    | join =>
      refine h.congr rfl rfl rfl fun hn => ?_
      obtain ⟨ha, hp⟩ := (Moves.none?_iff _).mp hn
      simp [Moves.none?, ha, hp]
    | state => exact (hl { s.link.gone o with owed := 0 }).setCause _

theorem returns (h : AxisSafe s) : AxisSafe s.returns := by
  have hl : ∀ l, AxisSafe { s with link := l } := fun _ => h.congr rfl rfl rfl id
  obtain ⟨l, e | e⟩ := s.returns_outcome <;> rw [e]
  · exact hl l
  · exact (hl l).starved

theorem react (h : AxisSafe s) (input : ExpiryInput) (b : Block) : AxisSafe (s.react input b) := by
  cases b <;> simp only [State.react]
  case peers => exact h.peerReaction
  case moves => exact h.moveReaction
  case surge => exact h.surgeReaction
  case axis => exact h.axisReaction
  case lines => exact h.lineReaction _
  case store => exact h.storeReaction _
  case setpoint => exact h.setpointOperation

theorem effect (h : AxisSafe s) (he : Effect s t) : AxisSafe t := by
  cases he with
  | nothing => exact h
  | background => exact h.storeOnly s.background_only
  | expiry input => exact h.expiry input
  | reaction input b => exact h.react input b
  | begun => exact AxisSafe.atStart ..
  | held b => exact AxisSafe.held b
  | profileDecision answered => exact h.profileStep answered
  | slotCheckEnd =>
    obtain e | ⟨st, e⟩ := s.slotStep_outcome <;> rw [e]
    · exact h
    · exact AxisSafe.finishStarting (h.congr rfl rfl rfl id)
  | driveAnswer => exact AxisSafe.finishStarting (h.congr rfl rfl rfl id)
  | storeCompletion good => exact h.storeOnly (s.storeCompletes_only good)
  | lineIdle => exact h.congr rfl rfl rfl id
  | departure => exact h.departs
  | unacknowledged => exact h.returns
  | arrival ha => exact AxisSafe.arrival (s := s.heard) (h.congr rfl rfl rfl id) ha

end AxisSafe

/-- Settles O55: every effect of a command keeps the axis invariant. -/
theorem stepKeepsAxisSafe : Obligations.StepKeepsAxisSafe := by
  unfold Obligations.StepKeepsAxisSafe
  intro s t hs h
  exact step_keeps (P := AxisSafe) (fun _ hs => hs) AxisSafe.effect hs h

end Sys2Proof.Machine
end

section
/-! The owed count with its cause, and the capacities of the lanes, through every command. -/

namespace Sys2Proof.Machine

/-! ## The line -/

@[simp] theorem Link.takeFrom_owed (l : Link) (k : Lane) : (l.takeFrom k).owed = l.owed := by
  unfold Link.takeFrom
  split
  · rfl
  · exact l.setLane_owed ..

@[simp] theorem Link.idle_owed (l : Link) (n : Station) (others : List Byte) : (l.idle n others).owed = l.owed := by
  unfold Link.idle
  split
  · split
    · exact l.takeFrom_owed _
    · rfl
  all_goals rfl

/-- A frame that leaves the line counts against its lane no more. -/
theorem Link.load_cleared_le (l : Link) (d : Option Frame) (n : Nat) (k : Lane) :
    ({ l with onLine := none, departed := d, owed := n } : Link).load k ≤ l.load k := by
  have hlane : ({ l with onLine := none, departed := d, owed := n } : Link).lane k = l.lane k := by cases k <;> rfl
  simp [Link.load, Link.laneOnLine, hlane]

/-- A frame that goes back to its lane counted against it on the line. -/
theorem Link.load_back_le {l : Link} {o : OnLine} (ho : l.onLine = some o) (hne : o.lane ≠ .state) (k : Lane) :
    (({ l with onLine := none } : Link).setLane o.lane (o.item :: l.lane o.lane)).load k ≤ l.load k := by
  by_cases hk : k = o.lane
  · subst hk
    have hon : l.laneOnLine o.lane = true := by simp [Link.laneOnLine, ho]
    unfold Link.load
    rw [Link.setLane_laneOnLine, Link.setLane_lane, if_neg (by simp [Link.laneOnLine]), if_pos ⟨hne, hon⟩]
    simp
  · rw [Link.setLane_load_ne _ _ hk]
    exact Link.load_cleared_le l l.departed l.owed k

/-- A frame that the line takes counts against its lane as it did, and a STATE frame no more. -/
theorem Link.load_takeFrom_le (l : Link) (j k : Lane) : (l.takeFrom j).load k ≤ l.load k := by
  unfold Link.takeFrom
  split
  · exact le_refl _
  · rename_i q rest hq
    have hlane : ∀ o, ({ l.setLane j rest with onLine := o } : Link).lane k = (l.setLane j rest).lane k := by
      intro o
      cases k <;> rfl
    unfold Link.load
    rw [hlane]
    by_cases hk : k = j
    · subst hk
      rw [Link.setLane_lane, hq, List.length_cons]
      split <;> omega
    · rw [Link.setLane_lane_ne _ _ hk]
      simp [Link.laneOnLine, Ne.symm hk]

/-! ## The owed count -/

namespace OwedSafe
variable {s t : State}

theorem movesOnly (h : OwedSafe s) (ho : s.MovesOnly t) : OwedSafe t := h.congr ho.owed (by rw [ho.axis])

theorem peersOnly (h : OwedSafe s) (ho : s.PeersOnly t) : OwedSafe t := h.congr ho.owed (by rw [ho.axis])

theorem storeOnly (h : OwedSafe s) (ho : s.StoreOnly t) : OwedSafe t := h.congr ho.owed (by rw [ho.axis])

theorem answer (h : OwedSafe s) (tag : Byte) (rc : ResultCode) : OwedSafe (s.answer tag rc) := h.congr rfl rfl

theorem answerCue (h : OwedSafe s) (tag : Option Byte) (rc : ResultCode) : OwedSafe (s.answerCue tag rc) := by
  cases tag with
  | none => exact h
  | some tag => exact h.answer tag rc

/-- With no frame owed any cause may stand. -/
theorem of_owed_zero (h : s.link.owed = 0) : OwedSafe s := ⟨by omega, fun h9 => by omega⟩

theorem arm (h : OwedSafe s) {tag : Byte} (ho : ArmOutcome s tag t) : OwedSafe t := by
  cases ho with
  | refused rc => exact h.answer tag rc
  | superseded => exact (h.movesOnly s.supersede_only).answer tag _
  | accepted hn hs hu hf moveId =>
    refine OwedSafe.answer (OwedSafe.movesOnly ?_ (State.acceptArm_only ..)) tag _
    obtain rfl | ⟨rfl, -⟩ := hu
    · exact h
    · exact h.movesOnly s.supersede_only

/-- A CLEAR acts on the latched cause only with fewer than nine frames owed (R147). -/
theorem owed_lt_of_clearActs (hc : s.clearActs = true) : s.link.owed < 9 := by
  unfold State.clearActs at hc
  split at hc
  case h_1 | h_2 | h_3 =>
    simp only [Bool.and_eq_true] at hc
    exact of_decide_eq_true hc.2
  all_goals cases hc

theorem cleared (h : OwedSafe s) (hlt : s.link.owed < 9) : OwedSafe s.cleared := by
  have hne : s.link.owed = 9 → FaultCause.none = .linkStarved := fun h9 => by omega
  unfold State.cleared
  split
  · exact OwedSafe.enter (s := { s with axis := { s.axis with haltLatch := false, cause := .none } }) ⟨h.1, hne⟩ _
  · exact (h.setCause hne).enter _
  · exact ⟨h.1, hne⟩
  all_goals exact h

theorem serviceAct (h : OwedSafe s) {tag : Byte} (ho : ServiceAct s tag t) : OwedSafe t := by
  cases ho with
  | captured | undone | emptied | committed | unparking => exact h.congr rfl rfl
  | queried page => exact h.movesOnly (s.hand_only ..)
  | deleted slot => exact h.storeOnly (s.beginErase_only slot tag)
  | unprotected slot => exact h.storeOnly (s.beginUnprotect_only slot tag)
  | approached => exact h.movesOnly (s.beginApproach_only ..)
  | parked | unparked => exact h.enter _
  | cleared hc =>
    refine OwedSafe.cleared (h.storeOnly s.unlocked_only) ?_
    rw [s.unlocked_only.owed]
    exact owed_lt_of_clearActs hc
  | unlocked => exact h.storeOnly s.unlocked_only

theorem service (h : OwedSafe s) {tag : Byte} (ho : ServiceOutcome s tag t) : OwedSafe t := by
  cases ho with
  | refused => exact h.answer ..
  | done ha => exact (h.serviceAct ha).answer ..
  | restarted straps => exact .of_owed_zero rfl

theorem stateArrives (h : OwedSafe s) (src : Station) (own : Bool) (r : StateReport) :
    OwedSafe (s.stateArrives src own r) := by
  unfold State.stateArrives
  split
  · exact h.clash
  · exact OwedSafe.movesOnly (h.peersOnly (s.writeEntry_only ..)) (State.updateNotice_only _ _)

theorem arrival (h : OwedSafe s) (ha : Arrival s t) : OwedSafe t := by
  cases ha with
  | unconcerned => exact h
  | halt => exact h.halt
  | surge => exact h.congr rfl rfl
  | arm ho => exact h.arm ho
  | join src own moveId => exact h.movesOnly (s.joinAt_only ..)
  | cue hc ho tag rc => exact (h.movesOnly ho.movesOnly).answerCue tag rc
  | stick src enable channels =>
    obtain ⟨p, e⟩ := s.stickArrives_eq src enable channels
    rw [e]
    exact h.congr rfl rfl
  | state => exact h.stateArrives ..
  | service ho => exact h.service ho

/-- NS_CONFIG_FAULT is entered with FC_LINK_STARVED where nine frames are owed (R135). -/
theorem finishStarting (h : OwedSafe s) : OwedSafe s.finishStarting := by
  unfold State.finishStarting
  split
  · unfold State.leaveStarting
    split
    · refine (h.enter .configFault).setCause fun h9 => ?_
      rw [(s.enter_only _).owed] at h9
      exact if_pos ⟨h.2 h9, h9⟩
    · split <;> exact h.enter _
  · exact h

theorem departs (h : OwedSafe s) : OwedSafe s.departs := by
  obtain e | ⟨o, ho⟩ := s.departs_outcome
  · rw [e]
    exact h
  · generalize s.departs = u at ho ⊢
    cases ho with
    | unread | claim | join => exact h.congr rfl rfl
    | state => exact .of_owed_zero rfl

/-- A STATE frame that a newer one has replaced is counted, and starves the link where the count rises to 9 (log
entry 11). -/
theorem stateReturns (h : OwedSafe s) (q : Queued) : OwedSafe (s.stateReturns q) := by
  unfold State.stateReturns
  split
  · exact h.congr rfl rfl
  · have hle : owedMore s.link.owed ≤ 9 := Nat.min_le_right _ _
    dsimp only
    split
    · exact OwedSafe.starved hle
    · rename_i hns
      refine ⟨hle, fun h9 => h.2 ?_⟩
      by_contra hne
      exact hns (decide_eq_true ⟨lt_of_le_of_ne h.1 hne, h9⟩)

theorem returns (h : OwedSafe s) : OwedSafe s.returns := by
  unfold State.returns
  split
  · exact h
  · split
    · exact h.stateReturns _
    all_goals
      refine h.congr ?_ rfl
      dsimp only
      split <;> simp

theorem axisReaction (h : OwedSafe s) : OwedSafe s.axisReaction := by
  have ho := s.axisReaction_outcome
  generalize s.axisReaction = u at ho ⊢
  cases ho with
  | stands => exact h
  | counted hc => exact h.congr rfl hc
  | entered new => exact h.enter new
  | faulted c => exact h.faulting c

theorem react (h : OwedSafe s) (input : ExpiryInput) (b : Block) : OwedSafe (s.react input b) := by
  cases b <;> simp only [State.react]
  case peers => exact h.peersOnly s.peerReaction_only
  case moves => exact h.movesOnly s.moveReaction_only
  case surge => exact h.congr rfl rfl
  case axis => exact h.axisReaction
  case lines =>
    exact State.lineReaction_keeps (fun _ hu => hu.congr rfl rfl) (fun hu => (hu.movesOnly (State.hand_only ..)).halt)
      (fun c hu => hu.faulting c) h _
  case store => exact h.storeOnly (s.storeReaction_only _)
  case setpoint => exact h.setpointOperation

theorem effect (h : OwedSafe s) (he : Effect s t) : OwedSafe t := by
  cases he with
  | nothing => exact h
  | background => exact h.storeOnly s.background_only
  | expiry input => exact State.expiry_keeps (P := OwedSafe) input (fun _ b hu => hu.react input b) h
  | reaction input b => exact h.react input b
  | begun | held => exact .of_owed_zero rfl
  | profileDecision answered =>
    unfold State.profileStep
    split
    · exact h
    · exact OwedSafe.finishStarting (h.congr rfl rfl)
  | slotCheckEnd =>
    obtain e | ⟨st, e⟩ := s.slotStep_outcome <;> rw [e]
    · exact h
    · exact OwedSafe.finishStarting (h.congr rfl rfl)
  | driveAnswer => exact OwedSafe.finishStarting (h.congr rfl rfl)
  | storeCompletion good => exact h.storeOnly (s.storeCompletes_only good)
  | lineIdle others => exact h.congr (Link.idle_owed ..) rfl
  | departure => exact h.departs
  | unacknowledged => exact h.returns
  | arrival ha => exact OwedSafe.arrival (s := s.heard) (h.congr rfl rfl) ha

end OwedSafe

/-! ## The lanes -/

theorem State.lapseIfStranded_load_le (s : State) (k : Lane) : s.lapseIfStranded.link.load k ≤ s.link.load k := by
  unfold State.lapseIfStranded
  split
  · split
    · exact s.discard_load_le ..
    · exact le_refl _
  · exact le_refl _

theorem State.abandonPending_load_le (s : State) (a : AbandonReason) (k : Lane) :
    (s.abandonPending a).link.load k ≤ s.link.load k := by
  unfold State.abandonPending
  split
  · exact (s.setAbandon a).discard_load_le ..
  · exact le_refl _

theorem State.abandonActive_load_le (s : State) (a : AbandonReason) (k : Lane) :
    (s.abandonActive a).link.load k ≤ s.link.load k := by
  unfold State.abandonActive
  split
  · exact le_refl _
  · split
    · exact le_refl _
    · split
      · exact State.abandonPending_load_le ..
      · exact le_trans (State.abandonPending_load_le ..) ((s.setAbandon a).discard_load_le ..)

theorem State.abandon_load_le (s : State) (p : Place) (a : AbandonReason) (k : Lane) :
    (s.abandon p a).link.load k ≤ s.link.load k := by
  cases p
  · exact s.abandonActive_load_le a k
  · exact s.abandonPending_load_le a k

theorem State.supersede_load_le (s : State) (k : Lane) : s.supersede.link.load k ≤ s.link.load k := by
  unfold State.supersede
  split
  · exact le_refl _
  · exact joinTakenBack_load_le ..

namespace LanesSafe
variable {s t : State}

theorem congr (h : LanesSafe s) (hl : t.link = s.link) : LanesSafe t := h.mono fun k => by rw [hl]

theorem storeOnly (h : LanesSafe s) (ho : s.StoreOnly t) : LanesSafe t := h.mono fun k => (ho.load k).le

theorem answer (h : LanesSafe s) (tag : Byte) (rc : ResultCode) : LanesSafe (s.answer tag rc) :=
  h.mono fun k => by simp

theorem answerCue (h : LanesSafe s) (tag : Option Byte) (rc : ResultCode) : LanesSafe (s.answerCue tag rc) := by
  cases tag with
  | none => exact h
  | some tag => exact h.answer tag rc

theorem of_reset (h : s.link = .reset) : LanesSafe s := by
  unfold LanesSafe
  rw [h]
  decide

/-! ### The move engine -/

theorem abandon (h : LanesSafe s) (p : Place) (a : AbandonReason) : LanesSafe (s.abandon p a) :=
  h.mono (s.abandon_load_le p a)

theorem cue (h : LanesSafe s) {p : Place} {c : Context} (ho : CueOutcome s p c t) : LanesSafe t := by
  cases ho with
  | stands => exact h
  | abandoned a => exact h.abandon p a
  | changed => exact h.congr rfl
  | posted | rearmed => exact LanesSafe.mono (s := s.putContext p _) (h.congr rfl) (State.lapseIfStranded_load_le _)

theorem acceptArm (h : LanesSafe s) (pl : Place) (moveId : Byte) (slot : Fin 48) (p : Preset) :
    LanesSafe (s.acceptArm pl moveId slot p) := LanesSafe.hand (h.congr rfl) _ _

theorem arm (h : LanesSafe s) {tag : Byte} (ho : ArmOutcome s tag t) : LanesSafe t := by
  cases ho with
  | refused rc => exact h.answer tag rc
  | superseded => exact (h.mono s.supersede_load_le).answer tag _
  | accepted hn hs hu hf moveId =>
    refine LanesSafe.answer (LanesSafe.acceptArm ?_ _ _ _ _) tag _
    obtain rfl | ⟨rfl, -⟩ := hu
    · exact h
    · exact h.mono s.supersede_load_le

theorem gatherExpiry (h : LanesSafe s) (p : Place) (c : Context) : LanesSafe (s.gatherExpiry p c) := by
  unfold State.gatherExpiry
  split
  · dsimp only
    split
    · exact h.congr rfl
    · split
      · exact h.congr rfl
      · exact LanesSafe.mono (s := s.putContext _ _) (h.congr rfl) (State.abandonPending_load_le _ _)
  · split
    · exact (h.abandon _ _).hand _ _
    all_goals exact h.abandon _ _

theorem countPlace (h : LanesSafe s) (p : Place) : LanesSafe (s.countPlace p) := by
  unfold State.countPlace
  split
  · exact h
  · split
    · split
      · exact h.gatherExpiry _ _
      · exact h.congr rfl
    · split
      · exact h.abandon _ _
      · exact h.congr rfl
    · split
      · exact h.congr rfl
      · split <;> exact h.congr rfl
    all_goals exact h

theorem stalePosted (h : LanesSafe s) (p : Place) (n : Station) : LanesSafe (s.stalePosted p n) := by
  unfold State.stalePosted
  split
  · exact h
  · split
    · dsimp only
      split
      · exact LanesSafe.hand (s := s.putContext _ _) (h.congr rfl) _ _
      · exact LanesSafe.mono (s := s.putContext _ _) (h.congr rfl) (State.lapseIfStranded_load_le _)
    · exact h

theorem staleNotice (h : LanesSafe s) (n : Station) : LanesSafe (s.staleNotice n) := by
  have hf : LanesSafe (s.staleFired n) := by
    unfold State.staleFired
    split
    · exact h
    · split
      · exact LanesSafe.hand (s := s.putContext _ _) (h.congr rfl) _ _
      · exact h
  exact (hf.stalePosted _ n).stalePosted _ n

theorem setCheck (h : LanesSafe s) (p : Place) (n : Station) : LanesSafe (s.setCheck p n) := by
  unfold State.setCheck
  split
  · split
    · exact (h.abandon _ _).hand _ _
    · exact h
  · exact h

theorem levelPart (h : LanesSafe s) : LanesSafe s.levelPart := by
  unfold State.levelPart
  split
  · exact h
  · dsimp only
    split
    · exact (LanesSafe.mono (s := s.putContext _ _) (h.congr rfl) (State.abandonActive_load_le _ _)).hand _ _
    · exact h.congr rfl

theorem advancePart (h : LanesSafe s) : LanesSafe s.advancePart.1 := by
  unfold State.advancePart
  split
  · exact h
  · split
    · exact LanesSafe.mono (s := s.putContext _ _) (h.congr rfl) (State.lapseIfStranded_load_le _)
    · exact h

theorem weightAndRelease (h : LanesSafe s) (b : Bool) : LanesSafe (s.weightAndRelease b) := by
  unfold State.weightAndRelease
  split
  · exact h
  · dsimp only
    generalize Context.weightPart _ = d
    split
    · exact LanesSafe.mono (s := s.putContext _ _) (h.congr rfl) (State.discard_load_le _ _)
    · exact h.congr rfl

theorem splicePart (h : LanesSafe s) : LanesSafe s.splicePart := by
  unfold State.splicePart
  split
  · split
    · exact h.congr rfl
    · exact h
  · exact h

theorem moveReaction (h : LanesSafe s) : LanesSafe s.moveReaction := by
  have hc : LanesSafe s.countdowns := (h.countPlace _).countPlace _
  unfold State.moveReaction State.playbackStep
  split
  · have hl : LanesSafe ((s.countdowns.splicePart.mapActive Context.gapPart).mapActive Context.ratePart).levelPart :=
      LanesSafe.levelPart (hc.splicePart.congr rfl)
    exact (hl.advancePart.weightAndRelease _).congr rfl
  · exact hc.congr rfl

/-! ### Transitions and reports -/

theorem settleStop (h : LanesSafe s) : LanesSafe s.settleStop := h.mono s.settleStop_load_le

theorem starved (h : LanesSafe s) : LanesSafe s.starved := h.mono s.starved_load_le

theorem finishStarting (h : LanesSafe s) : LanesSafe s.finishStarting :=
  State.finishStarting_keeps (P := LanesSafe) (fun n hu => hu.enter n) (fun _ hu => hu.congr rfl) h

theorem setpointOperation (h : LanesSafe s) : LanesSafe s.setpointOperation := by
  have ho : LanesSafe s.operate := by
    have hc : ∀ v w, LanesSafe (s.claimAsked v w) := by
      intro v w
      unfold State.claimAsked State.claimTaken
      split
      · split
        · exact h.hand _ _
        · exact h
      · exact h
    unfold State.operate
    split
    case h_1 | h_2 => exact (hc _ _).congr rfl
    all_goals exact h.congr rfl
  have hp : LanesSafe (s.operate.handedOver s.axis.nodeState) := Link.placeState_fits _ ho
  exact (State.reportsTaken_keeps (P := LanesSafe) (fun c hu => hu.faulting c) LanesSafe.starved hp _).settleStop

theorem axisReaction (h : LanesSafe s) : LanesSafe s.axisReaction := by
  have ho := s.axisReaction_outcome
  generalize s.axisReaction = u at ho ⊢
  cases ho with
  | stands => exact h
  | counted => exact h.congr rfl
  | entered new => exact h.enter new
  | faulted c => exact h.faulting c

theorem react (h : LanesSafe s) (input : ExpiryInput) (b : Block) : LanesSafe (s.react input b) := by
  cases b <;> simp only [State.react]
  case peers =>
    exact State.peerReaction_keeps (P := LanesSafe) (fun _ _ hu => hu.congr rfl) (fun n hu => hu.staleNotice n)
      (fun hu => hu.congr rfl) h
  case moves => exact h.moveReaction
  case surge => exact h.congr rfl
  case axis => exact h.axisReaction
  case lines =>
    exact State.lineReaction_keeps (P := LanesSafe) (fun _ hu => hu.congr rfl) (fun hu => (hu.hand _ _).halt)
      (fun c hu => hu.faulting c) h _
  case store => exact h.storeOnly (s.storeReaction_only _)
  case setpoint => exact h.setpointOperation

/-! ### Arrivals -/

theorem cleared (h : LanesSafe s) : LanesSafe s.cleared := by
  unfold State.cleared
  split
  · exact LanesSafe.enter (s := { s with axis := { s.axis with haltLatch := false, cause := .none } }) (h.congr rfl) _
  · exact LanesSafe.enter (s := s.setCause .none) (h.congr rfl) _
  all_goals exact h.congr rfl

theorem serviceAct (h : LanesSafe s) {tag : Byte} (ho : ServiceAct s tag t) : LanesSafe t := by
  cases ho with
  | captured | undone | emptied | committed | unparking | approached => exact h.congr rfl
  | queried page => exact h.hand _ _
  | deleted slot => exact h.storeOnly (s.beginErase_only slot tag)
  | unprotected slot => exact h.storeOnly (s.beginUnprotect_only slot tag)
  | parked | unparked => exact h.enter _
  | cleared => exact (h.storeOnly s.unlocked_only).cleared
  | unlocked => exact h.storeOnly s.unlocked_only

theorem service (h : LanesSafe s) {tag : Byte} (ho : ServiceOutcome s tag t) : LanesSafe t := by
  cases ho with
  | refused => exact h.answer _ _
  | done ha => exact (h.serviceAct ha).answer _ _
  | restarted straps => exact .of_reset rfl

theorem stateArrives (h : LanesSafe s) (src : Station) (own : Bool) (r : StateReport) :
    LanesSafe (s.stateArrives src own r) := by
  unfold State.stateArrives
  split
  · exact h.mono s.clash_load_le
  · have hw : LanesSafe (s.writeEntry src (entryOf r)) := h.congr rfl
    exact (hw.setCheck _ src).setCheck _ src

theorem arrival (h : LanesSafe s) (ha : Arrival s t) : LanesSafe t := by
  cases ha with
  | unconcerned => exact h
  | halt => exact h.halt
  | surge => exact h.congr rfl
  | arm ho => exact h.arm ho
  | join src own moveId =>
    obtain e | ⟨p, c, -, -, e⟩ := s.joinAt_outcome src own moveId <;> rw [e]
    · exact h
    · exact h.congr rfl
  | cue hc ho tag rc => exact (h.cue ho).answerCue tag rc
  | stick src enable channels =>
    obtain ⟨p, e⟩ := s.stickArrives_eq src enable channels
    rw [e]
    exact h.congr rfl
  | state => exact h.stateArrives _ _ _
  | service ho => exact h.service ho

/-! ### The line -/

theorem departs (h : LanesSafe s) : LanesSafe s.departs := by
  obtain e | ⟨o, ho⟩ := s.departs_outcome
  · rw [e]
    exact h
  · generalize s.departs = u at ho ⊢
    cases ho <;> exact h.mono fun k => Link.load_cleared_le s.link _ _ k

/-- A frame goes back to the lane it was counted against (R166), and a STATE frame to an empty one (R168). -/
theorem returns (h : LanesSafe s) : LanesSafe s.returns := by
  unfold State.returns
  split
  · exact h
  · rename_i o ho
    have hgone : ∀ n, LanesSafe { s with link := { s.link with onLine := none, owed := n } } := fun n =>
      h.mono fun k => Link.load_cleared_le s.link s.link.departed n k
    have hback : o.lane ≠ .state → LanesSafe { s with
        link := ({ s.link with onLine := none } : Link).setLane o.lane (o.item :: s.link.lane o.lane) } := fun hne =>
      h.mono (Link.load_back_le ho hne)
    split
    · unfold State.stateReturns
      split
      · intro k hk
        cases k
        case state => simp [Link.load, Link.lane, Lane.capacity]
        all_goals exact hgone s.link.owed _ hk
      · dsimp only
        split
        · exact (hgone _).starved
        · exact hgone _
    all_goals
      rename_i hl
      dsimp only
      split
      · exact hgone s.link.owed
      · exact hback (by rw [hl]; decide)

theorem lineIdle (h : LanesSafe s) (n : Station) (others : List Byte) :
    LanesSafe { s with link := s.link.idle n others } := by
  refine h.mono fun k => ?_
  dsimp only
  unfold Link.idle
  split
  · split
    · exact s.link.load_takeFrom_le _ k
    · exact le_refl _
  all_goals exact le_refl _

theorem effect (h : LanesSafe s) (he : Effect s t) : LanesSafe t := by
  cases he with
  | nothing => exact h
  | background => exact h.storeOnly s.background_only
  | expiry input => exact State.expiry_keeps (P := LanesSafe) input (fun _ b hu => hu.react input b) h
  | reaction input b => exact h.react input b
  | begun | held => exact .of_reset rfl
  | profileDecision answered =>
    unfold State.profileStep
    split
    · exact h
    · exact LanesSafe.finishStarting (h.congr rfl)
  | slotCheckEnd =>
    obtain e | ⟨st, e⟩ := s.slotStep_outcome <;> rw [e]
    · exact h
    · exact LanesSafe.finishStarting (h.congr rfl)
  | driveAnswer => exact LanesSafe.finishStarting (h.congr rfl)
  | storeCompletion good => exact h.storeOnly (s.storeCompletes_only good)
  | lineIdle others => exact h.lineIdle _ others
  | departure => exact h.departs
  | unacknowledged => exact h.returns
  | arrival ha => exact LanesSafe.arrival (s := s.heard) h ha

end LanesSafe

/-- Settles O56: every effect of a command keeps the owed count with its cause, and the lanes within their capacities. -/
theorem stepKeepsLinkSafe : Obligations.StepKeepsLinkSafe := by
  unfold Obligations.StepKeepsLinkSafe
  intro s t h
  exact ⟨fun hs => step_keeps (P := OwedSafe) (fun _ hs => hs) OwedSafe.effect hs h,
    fun hs => step_keeps (P := LanesSafe) (fun _ hs => hs) LanesSafe.effect hs h⟩

end Sys2Proof.Machine
end

section
/-! The surge window and the preset store through every command. -/

namespace Sys2Proof.Machine

/-! ## The surge unit -/

namespace SurgeSafe
variable {s t : State}

theorem halt (h : SurgeSafe s) : SurgeSafe s.halt := by
  have hc : SurgeSafe { s.haltContexts with axis := { s.haltContexts.axis with haltLatch := true } } :=
    h.congr s.haltContexts_only.surge
  exact hc.stopMotion

theorem starved (h : SurgeSafe s) : SurgeSafe s.starved := SurgeSafe.stopMotion (h.congr rfl)

theorem clash (h : SurgeSafe s) : SurgeSafe s.clash := by
  unfold State.clash
  split
  · exact h
  · split <;> exact SurgeSafe.stopMotion (h.congr rfl)

theorem finishStarting (h : SurgeSafe s) : SurgeSafe s.finishStarting :=
  State.finishStarting_keeps (P := SurgeSafe) (fun n hu => hu.enter n) (fun _ hu => hu.congr rfl) h

theorem of_reset (h : s.surge = .reset) : SurgeSafe s := by
  unfold SurgeSafe
  rw [h]
  simp [Surge.reset]

/-- A status that is no grant, and was none, takes the countdown 0 with it. -/
theorem status (h : SurgeSafe s) {c : ClaimStatus} (hs : s.surge.status ≠ .granted) (hc : c ≠ .granted)
    (ht : t.surge = { s.surge with status := c }) : SurgeSafe t := by
  obtain ⟨h1, h2, -, h4⟩ := h
  unfold SurgeSafe
  rw [ht]
  exact ⟨h1, h2, fun hg => absurd hg hc, fun _ => h4 hs⟩

theorem operate (h : SurgeSafe s) : SurgeSafe s.operate := by
  have hc : ∀ v w, SurgeSafe (s.claimAsked v w) := by
    intro v w
    unfold State.claimAsked State.claimTaken
    split
    · split
      · rename_i hn
        exact h.status (by rw [hn.1]; decide) (c := .queued) (by decide) rfl
      · exact h
    · exact h
  unfold State.operate
  split
  case h_1 | h_2 => exact (hc _ _).congr rfl
  all_goals exact h.congr rfl

theorem setpointOperation (h : SurgeSafe s) : SurgeSafe s.setpointOperation := by
  have hp : SurgeSafe (s.operate.handedOver s.axis.nodeState) := h.operate.congr rfl
  exact (State.reportsTaken_keeps (P := SurgeSafe) (fun c hu => hu.faulting c) SurgeSafe.starved hp _).settleStop

theorem axisReaction (h : SurgeSafe s) : SurgeSafe s.axisReaction := by
  have ho := s.axisReaction_outcome
  generalize s.axisReaction = u at ho ⊢
  cases ho with
  | stands => exact h
  | counted => exact h.congr rfl
  | entered new => exact h.enter new
  | faulted c => exact h.faulting c

theorem react (h : SurgeSafe s) (input : ExpiryInput) (b : Block) : SurgeSafe (s.react input b) := by
  cases b <;> simp only [State.react]
  case peers => exact h.congr s.peerReaction_only.surge
  case moves => exact h.congr s.moveReaction_only.surge
  case surge => exact h.surgeReaction
  case axis => exact h.axisReaction
  case lines =>
    exact State.lineReaction_keeps (P := SurgeSafe) (fun _ hu => hu.congr rfl)
      (fun {u} hu => SurgeSafe.halt (s := u.hand .halt _) (hu.congr rfl)) (fun c hu => hu.faulting c) h _
  case store => exact h.congr (s.storeReaction_only _).surge
  case setpoint => exact h.setpointOperation

/-- A claim enters a window with room for it with its whole life (R60). -/
theorem claimWindow_fits {w : List Claim} (src : Station) (hl : w.length ≤ 4)
    (hlife : ∀ c ∈ w, 1 ≤ c.life ∧ c.life ≤ 40) :
    (claimWindow w src).length ≤ 4 ∧ ∀ c ∈ claimWindow w src, 1 ≤ c.life ∧ c.life ≤ 40 := by
  unfold claimWindow
  split
  · rename_i hroom
    refine ⟨by simpa using hroom, fun c hc => ?_⟩
    rcases List.mem_append.mp hc with hc | hc
    · exact hlife c hc
    · rw [List.mem_singleton.mp hc]
      simp [Config.surgeLife]
  · exact ⟨hl, hlife⟩

theorem claimArrives (h : SurgeSafe s) (src : Station) (own : Bool) : SurgeSafe (s.claimArrives src own) := by
  obtain ⟨h1, h2, h3, h4⟩ := h
  obtain ⟨hw, hlife⟩ := claimWindow_fits src h1 h2
  have hother : SurgeSafe (s.claimArrives src false) := ⟨hw, hlife, h3, h4⟩
  cases own with
  | false => exact hother
  | true =>
    by_cases hs : s.surge.status = .sent
    · by_cases hroom : s.surge.window.length < Config.surgeSlots
      · rw [State.claimArrives_own_granted src hs hroom]
        exact ⟨hw, hlife, fun _ => by simp, fun hg => absurd rfl hg⟩
      · rw [State.claimArrives_own_void src hs (not_lt.mp hroom)]
        exact ⟨hw, hlife, fun hg => by simp at hg, fun _ => rfl⟩
    · rw [State.claimArrives_own_of_ne_sent src hs]
      exact hother

theorem cleared (h : SurgeSafe s) : SurgeSafe s.cleared := by
  unfold State.cleared
  split
  · exact SurgeSafe.enter (s := { s with axis := { s.axis with haltLatch := false, cause := .none } }) (h.congr rfl) _
  · exact SurgeSafe.enter (s := s.setCause .none) (h.congr rfl) _
  all_goals exact h.congr rfl

theorem serviceAct (h : SurgeSafe s) {tag : Byte} (ho : ServiceAct s tag t) : SurgeSafe t := by
  cases ho with
  | queried | captured | undone | emptied | committed | unparking | approached => exact h.congr rfl
  | deleted slot => exact h.congr (s.beginErase_only slot tag).surge
  | unprotected slot => exact h.congr (s.beginUnprotect_only slot tag).surge
  | parked | unparked => exact h.enter _
  | cleared => exact SurgeSafe.cleared (s := s.unlocked) (h.congr s.unlocked_only.surge)
  | unlocked => exact h.congr s.unlocked_only.surge

theorem service (h : SurgeSafe s) {tag : Byte} (ho : ServiceOutcome s tag t) : SurgeSafe t := by
  cases ho with
  | refused => exact h.congr rfl
  | done ha => exact (h.serviceAct ha).congr rfl
  | restarted straps => exact .of_reset rfl

theorem movesOnly (h : SurgeSafe s) (ho : s.MovesOnly t) : SurgeSafe t := h.congr ho.surge

theorem answer (h : SurgeSafe s) (tag : Byte) (rc : ResultCode) : SurgeSafe (s.answer tag rc) := h.congr rfl

theorem arm (h : SurgeSafe s) {tag : Byte} (ho : ArmOutcome s tag t) : SurgeSafe t := by
  cases ho with
  | refused rc => exact h.answer tag rc
  | superseded => exact (h.movesOnly s.supersede_only).answer tag _
  | accepted hn hs hu hf moveId =>
    refine SurgeSafe.answer (SurgeSafe.movesOnly ?_ (State.acceptArm_only ..)) tag _
    obtain rfl | ⟨rfl, -⟩ := hu
    · exact h
    · exact h.movesOnly s.supersede_only

theorem arrival (h : SurgeSafe s) (ha : Arrival s t) : SurgeSafe t := by
  cases ha with
  | unconcerned => exact h
  | halt => exact h.halt
  | surge src own => exact h.claimArrives src own
  | arm ho => exact h.arm ho
  | join => exact h.congr (s.joinAt_only ..).surge
  | cue hc ho tag rc => cases tag <;> exact h.congr ho.movesOnly.surge
  | stick src enable channels =>
    obtain ⟨p, e⟩ := s.stickArrives_eq src enable channels
    rw [e]
    exact h.congr rfl
  | state src own r =>
    unfold State.stateArrives
    split
    · exact h.clash
    · exact h.congr (State.updateNotice_only (s.writeEntry src _) src).surge
  | service ho => exact h.service ho

theorem effect (h : SurgeSafe s) (he : Effect s t) : SurgeSafe t := by
  cases he with
  | nothing => exact h
  | background => exact h.congr s.background_only.surge
  | expiry input => exact State.expiry_keeps (P := SurgeSafe) input (fun _ b hu => hu.react input b) h
  | reaction input b => exact h.react input b
  | begun | held => exact .of_reset rfl
  | profileDecision answered =>
    unfold State.profileStep
    split
    · exact h
    · exact SurgeSafe.finishStarting (h.congr rfl)
  | slotCheckEnd =>
    obtain e | ⟨st, e⟩ := s.slotStep_outcome <;> rw [e]
    · exact h
    · exact SurgeSafe.finishStarting (h.congr rfl)
  | driveAnswer => exact SurgeSafe.finishStarting (h.congr rfl)
  | storeCompletion good => exact h.congr (s.storeCompletes_only good).surge
  | lineIdle others => exact h.congr rfl
  | departure =>
    obtain e | ⟨o, ho⟩ := s.departs_outcome
    · rw [e]
      exact h
    · generalize s.departs = u at ho ⊢
      cases ho with
      | unread | join | state => exact h.congr rfl
      | claim hq => exact h.status (by rw [hq]; decide) (c := .sent) (by decide) rfl
  | unacknowledged =>
    obtain ⟨l, e | e⟩ := s.returns_outcome <;> rw [e]
    · exact h.congr rfl
    · exact SurgeSafe.starved (h.congr rfl)
  | arrival ha => exact SurgeSafe.arrival (s := s.heard) h ha

end SurgeSafe

/-! ## Keyframes and records -/

theorem clampFine_placed (x : Int) : inRange (-Config.fineBound) Config.fineBound (clampFine x) = true := by
  refine decide_eq_true ?_
  unfold clampFine clamp Config.fineBound
  split
  · omega
  · split <;> omega

/-- A captured keyframe continues a buffer that fits (R121). -/
theorem bufferFits.captured {b : List Keyframe} (h : bufferFits b) (hroom : b.length < Config.keysMax) (x : Int)
    (dur : Nat) (easing : Easing) : bufferFits (b ++ [capturedKey b (clampFine x) dur easing]) := by
  obtain ⟨-, h2, h3⟩ := h
  have hlen : (b ++ [capturedKey b (clampFine x) dur easing]).length ≤ 24 := by
    rw [List.length_append, List.length_singleton]
    exact hroom
  cases b with
  | nil =>
    refine ⟨hlen, fun k hk => ?_, fun k hk => by cases hk⟩
    cases hk
    exact ⟨clampFine_placed x, rfl⟩
  | cons k ks =>
    refine ⟨hlen, h2, fun y hy => ?_⟩
    rcases List.mem_append.mp hy with hy | hy
    · exact h3 y hy
    · rw [List.mem_singleton.mp hy]
      exact Bool.and_eq_true_iff.mpr ⟨clampFine_placed x, by simp [capturedKey]⟩

theorem bufferFits.dropLast {b : List Keyframe} (h : bufferFits b) : bufferFits b.dropLast := by
  obtain ⟨h1, h2, h3⟩ := h
  refine ⟨by rw [List.length_dropLast]; omega, fun k hk => ?_, fun k hk => ?_⟩
  · refine h2 k ?_
    cases b with
    | nil => exact hk
    | cons x xs =>
      cases xs with
      | nil => cases hk
      | cons y ys => exact hk
  · rw [List.tail_dropLast] at hk
    exact h3 k (List.mem_of_mem_dropLast hk)

/-- A COMMIT of a buffer with two keyframes forms a well-formed record (R123, R124). -/
theorem formedRecord_wellFormed {b : List Keyframe} (h : bufferFits b) (h2 : 2 ≤ b.length) (auto protect : Bool)
    (fIn fOut dwell sTrim : Nat) : (formedRecord b auto protect fIn fOut dwell sTrim).wellFormed = true := by
  obtain ⟨hlen, hhead, htail⟩ := h
  cases b with
  | nil => simp at h2
  | cons k ks =>
    obtain ⟨hp, hm⟩ := hhead k rfl
    have hall : ks.all Keyframe.later = true := List.all_eq_true.mpr htail
    have hmid : (k.placed && k.motion.isNone && ks.all Keyframe.later) = true := by rw [hp, hm, hall]; rfl
    unfold Preset.wellFormed formedRecord
    refine Bool.and_eq_true_iff.mpr ⟨Bool.and_eq_true_iff.mpr ⟨decide_eq_true ⟨h2, hlen⟩, hmid⟩, decide_eq_true ?_⟩
    exact ⟨Nat.min_le_right .., Nat.min_le_right .., Nat.min_le_right .., Nat.min_le_right ..⟩

/-- A slot that the start-up check fills holds a well-formed record (R119). -/
theorem checkedRecord_wellFormed {bs : List Byte} {p : Preset} (h : checkedRecord bs = some p) : p.wellFormed = true := by
  unfold checkedRecord at h
  split at h
  · split at h
    · cases h
      rename_i hc
      exact hc.2
    · cases h
  · cases h

theorem decidedSlot_fits (r : Region) : (decidedSlot r).fits = true := by
  unfold decidedSlot
  split
  · rfl
  · split
    · exact checkedRecord_wellFormed ‹_›
    · rfl
  · rfl

/-! ## The store -/

/-- The ninth law, of the store alone. -/
def Store.safe (st : Store) : Prop :=
  bufferFits st.buffer ∧ (∀ k : Fin 48, st.slots[k].fits = true) ∧ st.op.fits = true

theorem slots_set_fits {v : Vector Slot 48} (h : ∀ k : Fin 48, v[k].fits = true) (i : Fin 48) {x : Slot}
    (hx : x.fits = true) (k : Fin 48) : (v.set i x)[k].fits = true := by
  by_cases hk : i = k
  · subst hk
    simpa using hx
  · have hne : i.val ≠ k.val := fun e => hk (Fin.ext e)
    have := h k
    simp only [Fin.getElem_fin] at this ⊢
    rwa [Vector.getElem_set_ne _ _ hne]

namespace StoreSafe
variable {s t : State}

theorem congr (h : StoreSafe s) (hs : t.store = s.store) : StoreSafe t := by
  unfold StoreSafe
  rw [hs]
  exact h

theorem axisOnly (h : StoreSafe s) (ho : s.AxisOnly t) : StoreSafe t := h.congr ho.store

theorem reset (regions : Vector Region 48) : (Store.reset regions).safe := by
  refine ⟨⟨Nat.zero_le _, by simp [Store.reset], by simp [Store.reset]⟩, fun k => ?_, rfl⟩
  simp [Store.reset, Slot.fits]

theorem decideSlot {st : Store} (h : st.safe) (k : Fin 48) : (st.decideSlot k).safe :=
  ⟨h.1, slots_set_fits h.2.1 k (decidedSlot_fits _), h.2.2⟩

theorem background (h : StoreSafe s) : StoreSafe s.background := by
  unfold State.background
  split
  · split
    · split
      · exact ⟨h.1, (decideSlot (st := s.store) h _).2.1, rfl⟩
      · exact h
    · exact h
  all_goals exact h

theorem slotStep (h : StoreSafe s) : StoreSafe s.slotStep := by
  have hall : ∀ (ks : List (Fin 48)) {st : Store}, st.safe → (ks.foldl Store.decideSlot st).safe := by
    intro ks
    induction ks with
    | nil => exact fun hst => hst
    | cons k ks ih => exact fun hst => ih (decideSlot hst k)
  unfold State.slotStep
  split
  · rename_i k _
    obtain ⟨hb, hs, -⟩ := hall (slotsFrom k) (st := s.store) h
    exact StoreSafe.axisOnly (s := { s with store := { (slotsFrom k).foldl Store.decideSlot s.store with op := .idle } })
      ⟨hb, hs, rfl⟩ (State.finishStarting_only _)
  all_goals exact h

theorem storeFails (h : StoreSafe s) (op : OpRecord) : StoreSafe (s.storeFails op) :=
  ⟨h.1, slots_set_fits h.2.1 op.slot rfl, rfl⟩

/-- The record that a good end puts into its slot is the one that was written (R125). -/
theorem storeDone (h : StoreSafe s) (op : OpRecord) : StoreSafe (s.storeDone op) := by
  obtain ⟨hb, hs, ho⟩ := h
  refine ⟨?_, slots_set_fits hs op.slot ?_, rfl⟩
  · unfold State.storeDone
    dsimp only
    split
    · exact ⟨by decide, by simp, by simp⟩
    · exact hb
  · cases hop : s.store.op with
    | writing r p =>
      rw [hop] at ho
      exact ho
    | idle | checking | erasing | locked => rfl

theorem storeCompletes (h : StoreSafe s) (good : Bool) : StoreSafe (s.storeCompletes good) := by
  unfold State.storeCompletes
  split
  · exact h
  · split
    · exact h.storeDone _
    · exact h.storeFails _

theorem storeReaction (h : StoreSafe s) (b : Bool) : StoreSafe (s.storeReaction b) := by
  unfold State.storeReaction
  split
  · exact h
  · split
    · exact StoreSafe.storeFails (s := { s with store := { s.store with regions := s.store.cutRegions b } }) h _
    · refine ⟨h.1, h.2.1, ?_⟩
      have ho := h.2.2
      dsimp only
      generalize s.store.op = op at ho
      cases op <;> exact ho

theorem beginOp (h : StoreSafe s) (slot : Fin 48) {during : Slot} {op : StoreOp} (hd : during.fits = true)
    (ho : op.fits = true) : StoreSafe (s.beginOp slot during op) :=
  ⟨h.1, slots_set_fits h.2.1 slot hd, ho⟩

theorem setBuffer (h : StoreSafe s) {b : List Keyframe} (hb : bufferFits b) : StoreSafe (s.setBuffer b) :=
  ⟨hb, h.2⟩

/-- UNPROTECT writes the slot's own record, with protected no (R130). -/
theorem beginUnprotect (h : StoreSafe s) (slot : Fin 48) (tag : Byte) : StoreSafe (s.beginUnprotect slot tag) := by
  unfold State.beginUnprotect
  split
  · rename_i p hp
    have hw : p.wellFormed = true := by
      have := h.2.1 slot
      rwa [hp] at this
    split
    · exact h.beginOp slot rfl hw
    · exact h
  all_goals exact h

theorem unlocked (h : StoreSafe s) : StoreSafe s.unlocked := by
  unfold State.unlocked
  split
  · exact ⟨h.1, h.2.1, rfl⟩
  · exact h

theorem cleared (h : StoreSafe s) : StoreSafe s.cleared := by
  unfold State.cleared
  split
  · exact StoreSafe.axisOnly (s := { s with axis := { s.axis with haltLatch := false, cause := .none } }) h
      (State.enter_only _ _)
  · exact StoreSafe.axisOnly (s := s.setCause .none) h (State.enter_only _ _)
  all_goals exact h.congr rfl

theorem serviceAct (h : StoreSafe s) {tag : Byte} (ho : ServiceAct s tag t) : StoreSafe t := by
  cases ho with
  | queried | unparking | approached => exact h.congr rfl
  | captured hroom dur easing => exact h.setBuffer (bufferFits.captured h.1 hroom _ dur easing)
  | undone => exact h.setBuffer (bufferFits.dropLast h.1)
  | emptied => exact h.setBuffer ⟨by decide, by simp, by simp⟩
  | committed h2 slot auto protect => exact h.beginOp slot rfl (formedRecord_wellFormed h.1 h2 auto protect ..)
  | deleted slot =>
    unfold State.beginErase
    split
    · exact h
    · exact h.beginOp slot rfl rfl
  | unprotected slot => exact h.beginUnprotect slot tag
  | parked | unparked => exact h.axisOnly (s.enter_only _)
  | cleared => exact h.unlocked.cleared
  | unlocked => exact h.unlocked

theorem service (h : StoreSafe s) {tag : Byte} (ho : ServiceOutcome s tag t) : StoreSafe t := by
  cases ho with
  | refused => exact h.congr rfl
  | done ha => exact (h.serviceAct ha).congr rfl
  | restarted straps => exact reset _

theorem movesOnly (h : StoreSafe s) (ho : s.MovesOnly t) : StoreSafe t := h.congr ho.store

theorem answer (h : StoreSafe s) (tag : Byte) (rc : ResultCode) : StoreSafe (s.answer tag rc) := h.congr rfl

theorem arm (h : StoreSafe s) {tag : Byte} (ho : ArmOutcome s tag t) : StoreSafe t := by
  cases ho with
  | refused rc => exact h.answer tag rc
  | superseded => exact (h.movesOnly s.supersede_only).answer tag _
  | accepted hn hs hu hf moveId =>
    refine StoreSafe.answer (StoreSafe.movesOnly ?_ (State.acceptArm_only ..)) tag _
    obtain rfl | ⟨rfl, -⟩ := hu
    · exact h
    · exact h.movesOnly s.supersede_only

theorem arrival (h : StoreSafe s) (ha : Arrival s t) : StoreSafe t := by
  cases ha with
  | unconcerned => exact h
  | halt => exact h.axisOnly s.halt_only
  | surge => exact h.congr rfl
  | arm ho => exact h.arm ho
  | join => exact h.congr (s.joinAt_only ..).store
  | cue hc ho tag rc => cases tag <;> exact h.congr ho.movesOnly.store
  | stick src enable channels =>
    obtain ⟨p, e⟩ := s.stickArrives_eq src enable channels
    rw [e]
    exact h.congr rfl
  | state src own r =>
    unfold State.stateArrives
    split
    · exact h.axisOnly s.clash_only
    · exact h.congr (State.updateNotice_only (s.writeEntry src _) src).store
  | service ho => exact h.service ho

theorem react (h : StoreSafe s) (input : ExpiryInput) (b : Block) : StoreSafe (s.react input b) := by
  cases b <;> simp only [State.react]
  case peers => exact h.congr s.peerReaction_only.store
  case moves => exact h.congr s.moveReaction_only.store
  case surge => exact h.congr rfl
  case axis => exact h.axisOnly s.axisReaction_only
  case lines =>
    obtain ⟨-, -, -, -, hs, -⟩ := s.lineReaction_frame input.levels
    exact h.congr hs
  case store => exact h.storeReaction _
  case setpoint =>
    obtain ⟨-, -, -, hs, -⟩ := s.setpointOperation_frame
    exact h.congr hs

theorem effect (h : StoreSafe s) (he : Effect s t) : StoreSafe t := by
  cases he with
  | nothing => exact h
  | background => exact h.background
  | expiry input => exact State.expiry_keeps (P := StoreSafe) input (fun _ b hu => hu.react input b) h
  | reaction input b => exact h.react input b
  | begun | held => exact reset _
  | profileDecision answered =>
    unfold State.profileStep
    split
    · exact h
    · exact StoreSafe.axisOnly (s := s.decideProfile answered) h (State.finishStarting_only _)
  | slotCheckEnd => exact h.slotStep
  | driveAnswer number position ready =>
    exact StoreSafe.axisOnly (s := { s with drive := s.drive.take number position ready }) h (State.finishStarting_only _)
  | storeCompletion good => exact h.storeCompletes good
  | lineIdle others => exact h.congr rfl
  | departure =>
    obtain e | ⟨o, ho⟩ := s.departs_outcome
    · rw [e]
      exact h
    · generalize s.departs = u at ho ⊢
      cases ho <;> exact h.congr rfl
  | unacknowledged =>
    obtain ⟨l, e | e⟩ := s.returns_outcome <;> rw [e]
    · exact h.congr rfl
    · exact StoreSafe.axisOnly (s := { s with link := l }) h (State.starved_only _)
  | arrival ha => exact StoreSafe.arrival (s := s.heard) h ha

end StoreSafe

/-- Settles O57: every effect of a command keeps the surge window within its bounds, and the store. -/
theorem stepKeepsSurgeAndStoreSafe : Obligations.StepKeepsSurgeAndStoreSafe := by
  unfold Obligations.StepKeepsSurgeAndStoreSafe
  intro s t h
  exact ⟨fun hs => step_keeps (P := SurgeSafe) (fun _ hs => hs) SurgeSafe.effect hs h,
    fun hs => step_keeps (P := StoreSafe) (fun _ hs => hs) StoreSafe.effect hs h⟩

end Sys2Proof.Machine
end

section
/-! What happens to the contexts, said once: each operation of the move engine is a chain of elementary changes of its two
places, and every effect of a command is one of its operations. -/

namespace Sys2Proof.Machine

/-! ## Elementary changes -/

/-- `d` is the context `c` at a later time: the same number, and once `c` is past the gather its set stands (R78). -/
def Context.Continues (c d : Context) : Prop :=
  d.serial = c.serial ∧ (c.phase ≠ .gather → d.parts = c.parts ∧ d.phase ≠ .gather)

/-- The elementary changes of the two places. -/
inductive Moves.Change (m : Moves) : Moves → Prop
  | noted (a : Option AbandonReason) : Change m { m with lastAbandon := a }
  | dropped (p : Place) : Change m (m.put p none)
  | continued {p : Place} {c d : Context} (hc : m.at p = some c) (h : c.Continues d) : Change m (m.put p (some d))
  | promoted {c d : Context} (hc : m.pending = some c) (h : c.Continues d) :
      Change m { m with active := some d, pending := none }
  | created (p : Place) {d : Context} (h : d.serial = m.nextSerial) :
      Change m { m.put p (some d) with lastAbandon := none, nextSerial := m.nextSerial + 1 }

/-- A chain of elementary changes. -/
abbrev Moves.Evolves : Moves → Moves → Prop := Relation.ReflTransGen Moves.Change

theorem Moves.Evolves.refl {m : Moves} : m.Evolves m := Relation.ReflTransGen.refl

theorem Moves.Change.evolves {m n : Moves} (h : m.Change n) : m.Evolves n := Relation.ReflTransGen.single h

/-- No elementary change is of the hand-over. -/
theorem Moves.Evolves.handOver {m n : Moves} (h : m.Evolves n) : n.handOver = m.handOver := by
  induction h with
  | refl => rfl
  | tail _ hc ih =>
    rw [← ih]
    cases hc with
    | noted | promoted => rfl
    | dropped p | created p => cases p <;> rfl
    | @continued p => cases p <;> rfl

/-! ## One context -/

/-- A change of neither the number, nor the set, nor the phase out of or into the gather. -/
theorem Context.Continues.of_same {c d : Context} (hs : d.serial = c.serial) (hp : d.parts = c.parts)
    (hph : c.phase ≠ .gather → d.phase ≠ .gather) : c.Continues d := ⟨hs, fun h => ⟨hp, hph h⟩⟩

theorem Context.Continues.refl {c : Context} : c.Continues c := .of_same rfl rfl id

theorem Context.Continues.trans {c d e : Context} (h : c.Continues d) (g : d.Continues e) : c.Continues e := by
  refine ⟨g.1.trans h.1, fun hc => ?_⟩
  obtain ⟨hp, hd⟩ := h.2 hc
  obtain ⟨hq, he⟩ := g.2 hd
  exact ⟨hq.trans hp, he⟩

/-- A context that gathers, or goes into another phase, may have its set changed. -/
theorem Context.Continues.of_gather {c d : Context} (hs : d.serial = c.serial) (hc : c.phase = .gather) :
    c.Continues d := ⟨hs, fun h => absurd hc h⟩

theorem Context.continues_cued {c d : Context} (h : c.Cued d) : c.Continues d := by
  refine .of_same h.serial h.parts fun hc => ?_
  obtain e | ⟨-, hd⟩ := h.phase
  · rwa [e]
  · intro e
    rw [e] at hd
    cases hd

theorem Context.continues_joined {c : Context} (hc : c.phase = .gather) (src : Station) (own : Bool) :
    c.Continues (c.joined src own) := by
  refine .of_gather ?_ hc
  unfold Context.joined
  dsimp only
  split <;> split <;> rfl

theorem Context.continues_gapPart (c : Context) : c.Continues c.gapPart := by
  unfold Context.gapPart
  split
  · exact .refl
  · split
    · refine .of_same rfl rfl fun h => ?_
      dsimp only
      split
      · decide
      · exact h
    · exact .of_same rfl rfl id

theorem Context.continues_ratePart (c : Context) : c.Continues c.ratePart := by
  unfold Context.ratePart
  split
  case h_1 | h_2 =>
    refine .of_same rfl rfl fun _ => ?_
    dsimp only
    split <;> decide
  all_goals exact .refl

theorem Context.continues_moved (c : Context) (b : Bool) : c.Continues (c.moved b) := by
  unfold Context.moved
  dsimp only
  split
  · exact .of_same rfl rfl fun _ => by simp
  · exact .of_same rfl rfl id

theorem Context.continues_dwellPart (c : Context) : c.Continues c.dwellPart := by
  unfold Context.dwellPart
  dsimp only
  split
  · exact .of_same rfl rfl fun _ => by simp [Context.release]
  · exact .of_same rfl rfl id

theorem Context.continues_weightPart (c : Context) : c.Continues c.weightPart := by
  refine .of_same ?_ ?_ fun h => by rwa [c.weightPart_phase]
  all_goals
    unfold Context.weightPart
    split <;> rfl

theorem Context.continues_joinSent (c : Context) (serial : Option Nat) : c.Continues (c.joinSent serial) := by
  unfold Context.joinSent
  split
  · exact .of_same rfl rfl id
  · exact .refl

/-! ## Operations -/

section
variable (s : State)

theorem State.putContext_evolves {s : State} {p : Place} {c d : Context} (hc : s.moves.at p = some c)
    (h : c.Continues d) : s.moves.Evolves (s.putContext p (some d)).moves := (Moves.Change.continued hc h).evolves

theorem State.discard_evolves (p : Place) : s.moves.Evolves (s.discard p).moves := by
  rw [s.discard_moves]
  exact (Moves.Change.dropped p).evolves

theorem State.setAbandon_evolves (a : AbandonReason) : s.moves.Evolves (s.setAbandon a).moves :=
  (Moves.Change.noted _).evolves

theorem State.abandonPending_evolves (a : AbandonReason) : s.moves.Evolves (s.abandonPending a).moves := by
  unfold State.abandonPending
  split
  · exact (s.setAbandon_evolves a).trans (State.discard_evolves _ _)
  · exact .refl

theorem Context.continues_release (c : Context) : c.Continues c.release :=
  .of_same rfl rfl fun _ => by simp [Context.release]

theorem State.abandonActive_evolves (a : AbandonReason) : s.moves.Evolves (s.abandonActive a).moves := by
  unfold State.abandonActive
  split
  · exact .refl
  · rename_i c hc
    split
    · exact .refl
    · split
      · have hr : s.moves.Evolves ((s.setAbandon a).putContext .active (some c.release)).moves :=
          (s.setAbandon_evolves a).trans (State.putContext_evolves (s := s.setAbandon a) hc c.continues_release)
        exact hr.trans (State.abandonPending_evolves _ _)
      · exact ((s.setAbandon_evolves a).trans (State.discard_evolves _ _)).trans (State.abandonPending_evolves _ _)

theorem State.abandon_evolves (p : Place) (a : AbandonReason) : s.moves.Evolves (s.abandon p a).moves := by
  cases p
  · exact s.abandonActive_evolves a
  · exact s.abandonPending_evolves a

theorem State.supersede_evolves : s.moves.Evolves s.supersede.moves := by
  unfold State.supersede
  split
  · exact .refl
  · exact (Moves.Change.dropped .active).evolves.tail (.noted _)

theorem State.haltContexts_evolves : s.moves.Evolves s.haltContexts.moves := by
  unfold State.haltContexts
  split
  · exact .refl
  · exact ((s.setAbandon_evolves _).trans (State.discard_evolves _ _)).trans (State.discard_evolves _ _)

theorem State.lapseIfStranded_evolves : s.moves.Evolves s.lapseIfStranded.moves := by
  obtain e | e := s.lapseIfStranded_moves
  · rw [e]
  · rw [e]
    exact (Moves.Change.dropped .pending).evolves

/-- The context in a place replaced by its continuation, and the PENDING one lapsed where that strands it (R90). -/
theorem State.putLapse_evolves {s : State} {p : Place} {c d : Context} (hc : s.moves.at p = some c)
    (h : c.Continues d) : s.moves.Evolves (s.putContext p (some d)).lapseIfStranded.moves :=
  (State.putContext_evolves hc h).trans (State.lapseIfStranded_evolves _)

/-! ### Cues -/

theorem CueOutcome.evolves {s u : State} {p : Place} {c : Context} (h : CueOutcome s p c u)
    (hc : s.moves.at p = some c) : s.moves.Evolves u.moves := by
  cases h with
  | stands => exact .refl
  | abandoned a => exact s.abandon_evolves p a
  | changed hd => exact State.putContext_evolves hc (Context.continues_cued hd)
  | posted | rearmed =>
    refine State.putLapse_evolves hc (.of_same rfl rfl fun _ => ?_)
    simp [Context.post, Context.rearm]

theorem State.joinAt_evolves (src : Station) (own : Bool) (moveId : Byte) :
    s.moves.Evolves (s.joinAt src own moveId).moves := by
  obtain e | ⟨p, c, hc, hg, e⟩ := s.joinAt_outcome src own moveId
  · rw [e]
  · rw [e]
    exact State.putContext_evolves hc (Context.continues_joined hg src own)

theorem State.acceptArm_evolves (pl : Place) (moveId : Byte) (slot : Fin 48) (p : Preset) :
    s.moves.Evolves (s.acceptArm pl moveId slot p).moves := (Moves.Change.created pl rfl).evolves

theorem State.beginApproach_evolves (slot : Fin 48) (p : Preset) : s.moves.Evolves (s.beginApproach slot p).moves :=
  (Moves.Change.created .active rfl).evolves

/-! ### Notices -/

theorem State.staleFired_evolves (n : Station) : s.moves.Evolves (s.staleFired n).moves := by
  unfold State.staleFired
  split
  · exact .refl
  · rename_i hc
    split
    · exact State.putContext_evolves (p := .active) hc (.of_same rfl rfl fun _ => by simp)
    · exact .refl

theorem State.stalePosted_evolves (p : Place) (n : Station) : s.moves.Evolves (s.stalePosted p n).moves := by
  unfold State.stalePosted
  split
  · exact .refl
  · rename_i c hc
    have hr : c.Continues c.rearm := .of_same rfl rfl fun _ => by simp [Context.rearm]
    split
    · cases p
      · exact State.putContext_evolves hc hr
      · exact State.putLapse_evolves hc hr
    · exact .refl

theorem State.staleNotice_evolves (n : Station) : s.moves.Evolves (s.staleNotice n).moves :=
  ((s.staleFired_evolves n).trans (State.stalePosted_evolves _ _ n)).trans (State.stalePosted_evolves _ _ n)

theorem State.setCheck_evolves (p : Place) (n : Station) : s.moves.Evolves (s.setCheck p n).moves := by
  unfold State.setCheck
  split
  · split
    · exact s.abandon_evolves p _
    · exact .refl
  · exact .refl

theorem State.updateNotice_evolves (n : Station) : s.moves.Evolves (s.updateNotice n).moves :=
  (s.setCheck_evolves _ n).trans (State.setCheck_evolves _ _ n)

/-! ### The reaction to an expiry -/

theorem State.gatherExpiry_evolves {s : State} {p : Place} {c : Context} (hc : s.moves.at p = some c)
    (hg : c.phase = .gather) : s.moves.Evolves (s.gatherExpiry p c).moves := by
  have ha : s.moves.Evolves
      (s.putContext p (some { c with phase := .armed, gatherCd := 0, armedCd := Config.armExpiry })).moves :=
    State.putContext_evolves hc (.of_gather rfl hg)
  unfold State.gatherExpiry
  split
  · cases p
    · exact ha
    · dsimp only
      split
      · exact ha
      · exact ha.trans (State.abandonPending_evolves _ _)
  · split <;> exact s.abandon_evolves p _

theorem State.countPlace_evolves (p : Place) : s.moves.Evolves (s.countPlace p).moves := by
  unfold State.countPlace
  split
  · exact .refl
  · rename_i c hc
    split
    · split
      · exact State.gatherExpiry_evolves hc ‹_›
      · exact State.putContext_evolves hc (.of_same rfl rfl id)
    · split
      · exact s.abandon_evolves p _
      · exact State.putContext_evolves hc (.of_same rfl rfl id)
    · split
      · exact State.putContext_evolves hc (.of_same rfl rfl id)
      · cases p
        · exact State.putContext_evolves hc (.of_same rfl rfl fun _ => by simp [Context.fire])
        · exact State.putContext_evolves hc (.of_same rfl rfl id)
    all_goals exact .refl

theorem State.mapActive_evolves {f : Context → Context} (hf : ∀ c : Context, c.Continues (f c)) :
    s.moves.Evolves (s.mapActive f).moves := by
  cases ha : s.moves.active with
  | none =>
    have e : (s.mapActive f).moves = s.moves := by
      rw [s.mapActive_moves, ha, Option.map_none, ← ha]
    rw [e]
  | some c =>
    have e : (s.mapActive f).moves = s.moves.put .active (some (f c)) := by simp [ha, Moves.put]
    rw [e]
    exact (Moves.Change.continued (p := .active) ha (hf c)).evolves

theorem State.splicePart_evolves : s.moves.Evolves s.splicePart.moves := by
  unfold State.splicePart
  split
  · split
    · rename_i old new _ hn
      refine (Moves.Change.promoted (d := old.spliced new) hn (.of_same rfl rfl fun _ => ?_)).evolves
      unfold Context.spliced
      dsimp only
      split
      · rename_i h
        rcases h with h | h <;> rw [h] <;> decide
      · decide
    · exact .refl
  · exact .refl

theorem State.levelPart_evolves : s.moves.Evolves s.levelPart.moves := by
  unfold State.levelPart
  split
  · exact .refl
  · rename_i c hc
    have hl : s.moves.Evolves (s.putContext .active (some { c with lam := levelFactor c.t (s.estimates c) })).moves :=
      State.putContext_evolves (p := .active) hc (.of_same rfl rfl id)
    dsimp only
    split
    · exact hl.trans (State.abandonActive_evolves _ _)
    · exact hl

theorem State.advancePart_evolves : s.moves.Evolves s.advancePart.1.moves := by
  unfold State.advancePart
  split
  · exact .refl
  · rename_i c hc
    split
    · exact State.putLapse_evolves (p := .active) hc (c.continues_moved _)
    · exact .refl

theorem State.weightAndRelease_evolves (b : Bool) : s.moves.Evolves (s.weightAndRelease b).moves := by
  unfold State.weightAndRelease
  split
  · exact .refl
  · rename_i c hc
    have hw : c.Continues (if b = true then c.dwellPart else c).weightPart := by
      refine Context.Continues.trans (d := if b = true then c.dwellPart else c) ?_ (Context.continues_weightPart _)
      split
      · exact c.continues_dwellPart
      · exact .refl
    dsimp only
    generalize Context.weightPart _ = d at hw ⊢
    have hd : s.moves.Evolves (s.putContext .active (some d)).moves :=
      State.putContext_evolves (p := .active) hc hw
    split
    · exact hd.trans (State.discard_evolves _ _)
    · exact hd

/-- An expiry is a chain of changes, and then a hand-over (R92). -/
theorem State.moveReaction_evolves :
    ∃ m h, s.moves.Evolves m ∧ s.moveReaction.moves = { m with handOver := h } := by
  have hc : s.moves.Evolves s.countdowns.moves := (s.countPlace_evolves _).trans (State.countPlace_evolves _ _)
  unfold State.moveReaction State.playbackStep
  split
  · refine ⟨_, _, ?_, rfl⟩
    have hs := hc.trans (State.splicePart_evolves _)
    have hg := hs.trans (State.mapActive_evolves _ Context.continues_gapPart)
    have hr := hg.trans (State.mapActive_evolves _ Context.continues_ratePart)
    exact ((hr.trans (State.levelPart_evolves _)).trans (State.advancePart_evolves _)).trans
      (State.weightAndRelease_evolves _ _)
  · exact ⟨_, _, hc, rfl⟩

end

/-! ## Every effect -/

/-- The own JOIN's departure reported to its context (R77). -/
def Moves.joinSent (m : Moves) (serial : Option Nat) : Moves :=
  { m with active := m.active.map (Context.joinSent serial), pending := m.pending.map (Context.joinSent serial) }

/-- What the operations of the move engine keep, those that make a context with the record of a slot in `W`. -/
structure Moves.Kept (W : Preset → Prop) (Q : Moves → Prop) : Prop where
  halted : ∀ {s : State}, Q s.moves → Q s.haltContexts.moves
  stale : ∀ {s : State} n, Q s.moves → Q (s.staleNotice n).moves
  updated : ∀ {s : State} n, Q s.moves → Q (s.updateNotice n).moves
  reacted : ∀ {s : State}, Q s.moves → Q s.moveReaction.moves
  sent : ∀ {m : Moves} serial, Q m → Q (m.joinSent serial)
  joined : ∀ {s : State} src own moveId, Q s.moves → Q (s.joinAt src own moveId).moves
  cued : ∀ {s u : State} {p c}, s.moves.at p = some c → CueOutcome s p c u → Q s.moves → Q u.moves
  superseded : ∀ {s : State}, s.moves.pending = none → Q s.moves → Q s.supersede.moves
  armed : ∀ {s : State} {pl p} moveId slot, W p → s.moves.free pl → Q s.moves → Q (s.acceptArm pl moveId slot p).moves
  approached : ∀ {s : State} {p} slot, W p → s.moves.none? = true → Q s.moves → Q (s.beginApproach slot p).moves

namespace Moves.Kept
variable {W : Preset → Prop} {Q : Moves → Prop} {s t : State}

theorem enter (k : Kept W Q) (h : Q s.moves) (n : NodeState) : Q (s.enter n).moves := by
  rw [s.enter_moves]
  split
  · exact k.halted h
  · exact h

theorem settleStop (k : Kept W Q) (h : Q s.moves) : Q s.settleStop.moves := by
  unfold State.settleStop
  split
  · exact k.enter h _
  · exact h

theorem stopMotion (k : Kept W Q) (h : Q s.moves) : Q s.stopMotion.moves := by
  unfold State.stopMotion
  split
  case h_1 | h_2 | h_3 => exact k.settleStop (k.enter h _)
  all_goals exact h

theorem halt (k : Kept W Q) (h : Q s.moves) : Q s.halt.moves :=
  k.stopMotion (s := { s.haltContexts with axis := { s.haltContexts.axis with haltLatch := true } }) (k.halted h)

theorem faulting (k : Kept W Q) (h : Q s.moves) (c : FaultCause) : Q (s.faulting c).moves := by
  unfold State.faulting
  dsimp only
  split
  case h_1 | h_2 | h_3 => exact h
  all_goals exact k.enter (s := s.setCause (causeAfterFaulting s.axis.cause c s.link.owed)) h _

theorem starved (k : Kept W Q) (h : Q s.moves) : Q s.starved.moves := k.stopMotion (s := s.setCause _) h

theorem clash (k : Kept W Q) (h : Q s.moves) : Q s.clash.moves := by
  unfold State.clash
  split
  · exact h
  · split
    · exact k.stopMotion (s := s.setCause _) h
    · exact k.stopMotion h

theorem finishStarting (k : Kept W Q) (h : Q s.moves) : Q s.finishStarting.moves :=
  State.finishStarting_keeps (P := fun u => Q u.moves) (fun n hu => k.enter hu n) (fun _ hu => hu) h

theorem axisReaction (k : Kept W Q) (h : Q s.moves) : Q s.axisReaction.moves := by
  have ho := s.axisReaction_outcome
  generalize s.axisReaction = u at ho ⊢
  cases ho with
  | stands | counted => exact h
  | entered new => exact k.enter h new
  | faulted c => exact k.faulting h c

theorem setpointOperation (k : Kept W Q) (h : Q s.moves) : Q s.setpointOperation.moves := by
  have ho : Q (s.operate.handedOver s.axis.nodeState).moves := by
    obtain ⟨-, -, -, hm, -⟩ := s.operate_frame
    rwa [State.handedOver_moves, hm]
  exact k.settleStop (State.reportsTaken_keeps (P := fun u => Q u.moves) (fun c hu => k.faulting hu c)
    (fun hu => k.starved hu) ho _)

theorem react (k : Kept W Q) (h : Q s.moves) (input : ExpiryInput) (b : Block) : Q (s.react input b).moves := by
  cases b <;> simp only [State.react]
  case peers =>
    exact State.peerReaction_keeps (P := fun u => Q u.moves) (fun _ _ hu => hu) (fun n hu => k.stale n hu)
      (fun hu => hu) h
  case moves => exact k.reacted h
  case surge => exact h
  case axis => exact k.axisReaction h
  case lines =>
    exact State.lineReaction_keeps (P := fun u => Q u.moves) (fun _ hu => hu)
      (fun {u} hu => k.halt (s := u.hand .halt _) hu) (fun c hu => k.faulting hu c) h _
  case store => rwa [(s.storeReaction_only _).moves]
  case setpoint => exact k.setpointOperation h

theorem arm (k : Kept W Q) (hW : ∀ (i : Fin 48) p, s.store.slots[i] = .held p → W p) (h : Q s.moves) {tag : Byte}
    (ho : ArmOutcome s tag t) : Q t.moves := by
  cases ho with
  | refused rc => exact h
  | superseded hn hp => exact k.superseded hp h
  | accepted hn hs hu hf moveId =>
    obtain rfl | ⟨rfl, hp⟩ := hu
    · exact k.armed moveId _ (hW _ _ hs) hf h
    · exact k.armed moveId _ (hW _ _ hs) hf (k.superseded hp h)

theorem cleared (k : Kept W Q) (h : Q s.moves) : Q s.cleared.moves := by
  unfold State.cleared
  split
  · exact k.enter (s := { s with axis := { s.axis with haltLatch := false, cause := .none } }) h _
  · exact k.enter (s := s.setCause .none) h _
  all_goals exact h

theorem serviceAct (k : Kept W Q) (hW : ∀ (i : Fin 48) p, s.store.slots[i] = .held p → W p) (h : Q s.moves)
    {tag : Byte} (ho : ServiceAct s tag t) : Q t.moves := by
  cases ho with
  | queried | captured | undone | emptied | committed | unparking => exact h
  | deleted slot => rwa [(s.beginErase_only slot tag).moves]
  | unprotected slot => rwa [(s.beginUnprotect_only slot tag).moves]
  | approached hn hm hs => exact k.approached _ (hW _ _ hs) hm h
  | parked | unparked => exact k.enter h _
  | cleared => exact k.cleared (s := s.unlocked) (by rwa [s.unlocked_only.moves])
  | unlocked => rwa [s.unlocked_only.moves]

/-- A start is taken apart: it leaves the reset values. -/
theorem arrival (k : Kept W Q) (hW : ∀ (i : Fin 48) p, s.store.slots[i] = .held p → W p) (h : Q s.moves)
    (ha : Arrival s t) : Q t.moves ∨ t.moves = .reset := by
  cases ha with
  | unconcerned | surge => exact .inl h
  | halt => exact .inl (k.halt h)
  | arm ho => exact .inl (k.arm hW h ho)
  | join src own moveId => exact .inl (k.joined src own moveId h)
  | cue hc ho tag rc => cases tag <;> exact .inl (k.cued hc ho h :)
  | stick src enable channels =>
    obtain ⟨p, e⟩ := s.stickArrives_eq src enable channels
    rw [e]
    exact .inl h
  | state src own r =>
    unfold State.stateArrives
    split
    · exact .inl (k.clash h)
    · exact .inl (k.updated (s := s.writeEntry src _) src h)
  | service ho =>
    cases ho with
    | refused => exact .inl h
    | done ha => exact .inl (k.serviceAct hW h ha :)
    | restarted => exact .inr rfl

/-- What the operations of the move engine keep, every effect keeps but for a start. -/
theorem effect (k : Kept W Q) (hW : ∀ (i : Fin 48) p, s.store.slots[i] = .held p → W p) (h : Q s.moves)
    (he : Effect s t) : Q t.moves ∨ t.moves = .reset := by
  cases he with
  | nothing | lineIdle => exact .inl h
  | background => exact .inl (by rwa [s.background_only.moves])
  | expiry input => exact .inl (State.expiry_keeps (P := fun u => Q u.moves) input (fun _ b hu => k.react hu input b) h)
  | reaction input b => exact .inl (k.react h input b)
  | begun | held => exact .inr rfl
  | profileDecision answered =>
    unfold State.profileStep
    split
    · exact .inl h
    · exact .inl (k.finishStarting (s := s.decideProfile answered) h)
  | slotCheckEnd =>
    obtain e | ⟨st, e⟩ := s.slotStep_outcome <;> rw [e]
    · exact .inl h
    · exact .inl (k.finishStarting (s := { s with store := st }) h)
  | driveAnswer number position ready =>
    exact .inl (k.finishStarting (s := { s with drive := s.drive.take number position ready }) h)
  | storeCompletion good => exact .inl (by rwa [(s.storeCompletes_only good).moves])
  | departure =>
    obtain e | ⟨o, ho⟩ := s.departs_outcome
    · rw [e]
      exact .inl h
    · generalize s.departs = u at ho ⊢
      cases ho with
      | unread | claim | state => exact .inl h
      | join => exact .inl (k.sent o.item.ctx h)
  | unacknowledged =>
    obtain ⟨l, e | e⟩ := s.returns_outcome <;> rw [e]
    · exact .inl h
    · exact .inl (k.starved (s := { s with link := l }) h)
  | arrival ha => exact k.arrival (s := s.heard) hW h ha

end Moves.Kept

end Sys2Proof.Machine
end

section
/-! The fifth, the sixth and the seventh law through every command: contexts within their ranges, the PENDING place beside
a move that plays, and participant sets that stand past the gather. -/

namespace Sys2Proof.Machine

/-! ## New contexts -/

theorem newJoint_fits {p : Preset} (h : p.wellFormed = true) (serial : Nat) (moveId : Byte) (slot : Fin 48)
    (own : OwnJoin) : (newJoint serial moveId slot p own).fits := by
  refine ⟨h, ?_, ?_, ?_, ?_, ?_, fun x => by cases x⟩ <;> exact Nat.zero_le _

/-- A clamped value lies within its bounds. -/
theorem clamp_within {lo hi : Int} (h : lo ≤ hi) (x : Int) : lo ≤ clamp lo hi x ∧ clamp lo hi x ≤ hi := by
  unfold clamp
  split
  · omega
  · split <;> omega

theorem approachPeriods_within (delta v : Int) : 1 ≤ approachPeriods delta v ∧ approachPeriods delta v ≤ 30000 := by
  obtain ⟨h1, h2⟩ := clamp_within (lo := 1) (hi := Config.segMax) (by decide)
    (ceilDiv (3 * mag delta) (2 * v))
  have h3 : (Config.segMax : Int) = 30000 := rfl
  unfold approachPeriods
  omega

theorem Preset.posAt_zero_placed {p : Preset} (h : p.wellFormed = true) :
    inRange (-Config.fineBound) Config.fineBound (p.posAt 0) = true := by
  obtain ⟨-, -, k, ks, hk, hp, -⟩ := Preset.wellFormed_keys h
  have e : p.posAt 0 = k.pos := by simp [Preset.posAt, hk]
  rw [e]
  exact hp

/-- The preset of an APPROACH is a record's (R112): own positions and keyframes are placed. -/
theorem approachPreset_wellFormed (x : Int) {p : Preset} (h : p.wellFormed = true) (v : Int) :
    (approachPreset (clampFine x) (p.posAt 0) v).wellFormed = true := by
  obtain ⟨h1, h2⟩ := approachPeriods_within (p.posAt 0 - clampFine x) v
  have hk : Keyframe.placed ⟨clampFine x, none⟩ = true := clampFine_placed x
  have hl : Keyframe.later ⟨p.posAt 0, some ⟨approachPeriods (p.posAt 0 - clampFine x) v, .smooth⟩⟩ = true :=
    Bool.and_eq_true_iff.mpr ⟨Preset.posAt_zero_placed h, decide_eq_true ⟨h1, h2⟩⟩
  unfold Preset.wellFormed approachPreset
  simp [hk, hl]

theorem newApproach_fits {q : Preset} (h : q.wellFormed = true) (serial : Nat) (slot : Fin 48) (n : Station) :
    (newApproach serial slot q n).fits := by
  refine ⟨h, ?_, ?_, ?_, ?_, ?_, fun x => by cases x⟩ <;> exact Nat.zero_le _

/-! ## Weights, timelines and places -/

theorem Context.fits_cued {c d : Context} (h : c.fits) (hd : c.Cued d) : d.fits := by
  refine Context.fits_of_same h hd.preset hd.w hd.w0 hd.wFloor hd.r hd.t fun hf => ?_
  obtain e | ⟨-, hp⟩ := hd.phase
  · rwa [e] at hf
  · rw [hf] at hp
    cases hp

theorem Context.fits_joinSent {c : Context} (h : c.fits) (serial : Option Nat) : (c.joinSent serial).fits := by
  unfold Context.joinSent
  split
  · exact Context.fits_of_same h rfl rfl rfl rfl rfl rfl id
  · exact h

theorem Context.joinSent_same (c : Context) (serial : Option Nat) :
    (c.joinSent serial).phase = c.phase ∧ (c.joinSent serial).due = c.due := by
  unfold Context.joinSent
  split <;> exact ⟨rfl, rfl⟩

theorem Context.waits.unfired {c : Context} (h : c.waits) : c.phase.fired = false := by
  obtain h | h := h <;> rw [h] <;> rfl

/-- An ACTIVE context that has not fired stands alone, and may be replaced by any that fits. -/
theorem Moves.safe_put_alone {m : Moves} (h : m.safe) {c d : Context} (hc : m.active = some c)
    (hf : c.phase.fired = false) (hd : d.fits) : (m.put .active (some d)).safe :=
  Moves.safe_alone (h.alone hc (Phase.playing_not_fired hf).1 (Phase.playing_not_fired hf).2)
    (by simpa [Moves.put] using hd)

/-- A context that waits replaced by another one before its fire. -/
theorem State.putLapse_safe {s : State} (h : s.moves.safe) {p : Place} {c d : Context} (hc : s.moves.at p = some c)
    (hw : c.waits) (hd : d.fits) (hf : d.phase.fired = false) :
    (s.putContext p (some d)).lapseIfStranded.moves.safe := by
  cases p with
  | active =>
    have hs : (s.putContext .active (some d)).moves.safe := Moves.safe_put_alone h hc hw.unfired hd
    obtain e | e := (s.putContext .active (some d)).lapseIfStranded_moves <;> rw [e]
    · exact hs
    · exact Moves.safe_put_none hs .pending (by simp)
  | pending => exact State.lapse_put_pending_safe h hd hf hc

theorem State.fits_at {s : State} (h : s.moves.safe) {p : Place} {c : Context} (hc : s.moves.at p = some c) : c.fits := by
  cases p
  · exact h.1 c hc
  · exact h.2.1 c hc

/-- A cue changes a playing context's phase among those that play, so a PENDING one may stay beside it. -/
theorem Moves.safe_put_cued {m : Moves} (h : m.safe) {p : Place} {c d : Context} (hc : m.at p = some c) (hf : c.fits)
    (hd : c.Cued d) : (m.put p (some d)).safe := by
  have hfd : d.fits := Context.fits_cued hf hd
  cases p with
  | active =>
    refine Moves.safe_put_active h hfd fun q hq => ?_
    obtain ⟨-, a, ha, hb⟩ := h.beside hq
    cases ha.symm.trans hc
    obtain e | ⟨-, hp⟩ := hd.phase
    · rwa [e]
    · exact .inl hp
  | pending =>
    obtain ⟨hun, a, ha, hb⟩ := h.beside hc
    have e : d.phase = c.phase := hd.phase.resolve_right fun hp => by
      rw [(Phase.playing_not_fired hun).1] at hp
      cases hp.1
    exact Moves.safe_put_pending h hfd (e ▸ hun) ha (by rwa [hd.due])

theorem CueOutcome.safe {s u : State} {p : Place} {c : Context} (h : s.moves.safe) (hc : s.moves.at p = some c)
    (ho : CueOutcome s p c u) : u.moves.safe := by
  have hf : c.fits := State.fits_at h hc
  cases ho with
  | stands => exact h
  | abandoned a => exact State.abandon_safe h p a
  | changed hd => exact Moves.safe_put_cued h hc hf hd
  | posted hw lead => exact State.putLapse_safe h hc hw (Context.fits_post hf lead) rfl
  | rearmed hw => exact State.putLapse_safe h hc hw (Context.fits_rearm hf) rfl

theorem Context.joined_same {c : Context} (src : Station) (own : Bool) :
    (c.joined src own).phase = c.phase ∧ (c.joined src own).due = c.due := by
  unfold Context.joined
  dsimp only
  split <;> split <;> exact ⟨rfl, rfl⟩

theorem State.joinAt_safe {s : State} (h : s.moves.safe) (src : Station) (own : Bool) (moveId : Byte) :
    (s.joinAt src own moveId).moves.safe := by
  obtain e | ⟨p, c, hc, hg, e⟩ := s.joinAt_outcome src own moveId <;> rw [e]
  · exact h
  · obtain ⟨hph, hdue⟩ := c.joined_same src own
    have hfd : (c.joined src own).fits := Context.fits_joined (State.fits_at h hc) src own
    cases p with
    | active => exact Moves.safe_put_alone h hc (by rw [hg]; rfl) hfd
    | pending =>
      obtain ⟨hun, a, ha, hb⟩ := h.beside hc
      exact Moves.safe_put_pending h hfd (hph ▸ hun) ha (by rwa [hdue])

theorem State.acceptArm_safe {s : State} (h : s.moves.safe) {pl : Place} {p : Preset} (hp : p.wellFormed = true)
    (hf : s.moves.free pl) (moveId : Byte) (slot : Fin 48) : (s.acceptArm pl moveId slot p).moves.safe := by
  have hfit := newJoint_fits hp s.moves.nextSerial moveId slot
    (if s.link.room .cue = true then OwnJoin.queued else OwnJoin.dropped)
  cases pl with
  | active =>
    obtain ⟨-, hpe⟩ := hf
    exact Moves.safe_alone hpe (by simpa [State.acceptArm, Moves.put] using hfit)
  | pending =>
    obtain ⟨-, a, ha, hpl⟩ := hf
    exact Moves.safe_congr (Moves.safe_put_pending h hfit rfl ha (.inl hpl)) rfl rfl

theorem State.beginApproach_safe {s : State} (hm : s.moves.none? = true) {p : Preset} (hp : p.wellFormed = true)
    (slot : Fin 48) : (s.beginApproach slot p).moves.safe := by
  obtain ⟨-, hpe⟩ := (Moves.none?_iff _).mp hm
  refine Moves.safe_alone hpe ?_
  have hfit := newApproach_fits (approachPreset_wellFormed (s.limiter.S - s.blend.F) hp s.start.profile.vApproach)
    s.moves.nextSerial slot s.start.station
  simpa [State.beginApproach, State.ownPos] using hfit

theorem Moves.joinSent_safe {m : Moves} (h : m.safe) (serial : Option Nat) : (m.joinSent serial).safe := by
  obtain ⟨ha, hp, hb⟩ := h
  refine ⟨fun a hx => ?_, fun p hx => ?_, fun p hx => ?_⟩ <;>
    obtain ⟨c, hc, rfl⟩ := Option.map_eq_some_iff.mp hx
  · exact Context.fits_joinSent (ha c hc) serial
  · exact Context.fits_joinSent (hp c hc) serial
  · obtain ⟨hun, a, haa, hcase⟩ := hb c hc
    obtain ⟨hph, hdue⟩ := c.joinSent_same serial
    have haa' : m.active = some a := haa
    refine ⟨by rwa [hph], a.joinSent serial, by simp [Moves.joinSent, haa'], ?_⟩
    rwa [(a.joinSent_same serial).1, hdue]

theorem State.supersede_safe {s : State} (h : s.moves.safe) (hp : s.moves.pending = none) : s.supersede.moves.safe := by
  unfold State.supersede
  split
  · exact h
  · exact Moves.safe_alone hp (by simp)

/-- The fifth and the sixth law, of the moves alone. -/
def Moves.fit (m : Moves) : Prop := m.safe ∧ m.handOver.fits

/-- An operation that makes no hand-over keeps the laws when it keeps them of the places. -/
theorem Moves.fit.evolves {m n : Moves} (h : m.fit) (hs : n.safe) (he : m.Evolves n) : n.fit :=
  ⟨hs, he.handOver ▸ h.2⟩

theorem Moves.fit_kept : Moves.Kept (fun p => p.wellFormed = true) Moves.fit where
  halted {s} h := h.evolves s.haltContexts_safe s.haltContexts_evolves
  stale {s} n h := h.evolves (State.staleNotice_safe h.1 n) (s.staleNotice_evolves n)
  updated {s} n h := h.evolves (State.updateNotice_safe h.1 n) (s.updateNotice_evolves n)
  reacted h := (movesSafe_iff _).mp (State.moveReaction_safe h.1)
  sent serial h := ⟨Moves.joinSent_safe h.1 serial, h.2⟩
  joined {s} src own moveId h := h.evolves (State.joinAt_safe h.1 src own moveId) (s.joinAt_evolves src own moveId)
  cued hc ho h := h.evolves (ho.safe h.1 hc) (ho.evolves hc)
  superseded {s} hp h := h.evolves (State.supersede_safe h.1 hp) s.supersede_evolves
  armed {s pl p} moveId slot hw hf h :=
    h.evolves (State.acceptArm_safe h.1 hw hf moveId slot) (s.acceptArm_evolves pl moveId slot p)
  approached {s p} slot hw hm h := h.evolves (State.beginApproach_safe hm hw slot) (s.beginApproach_evolves slot p)

theorem Moves.fit_reset : Moves.reset.fit :=
  ⟨Moves.safe_alone rfl (by simp [Moves.reset]), Nat.zero_le _, Nat.zero_le _⟩

/-- Settles O58: the laws are kept by every operation of the move engine, over a store of well-formed records. -/
theorem stepKeepsMovesSafe : Obligations.StepKeepsMovesSafe := by
  unfold Obligations.StepKeepsMovesSafe
  intro s t hst hs h
  obtain ⟨q, he⟩ := step_effect h
  have hW : ∀ (i : Fin 48) p, s.store.slots[i] = .held p → p.wellFormed = true := by
    intro i p hp
    have hfit := hst.2.1 i
    rwa [hp] at hfit
  rw [movesSafe_iff] at hs ⊢
  obtain hm | hm := Moves.fit_kept.effect (s := s.withQueue q) hW hs he
  · exact hm
  · rw [hm]
    exact Moves.fit_reset

/-! ## Frozen sets -/

/-- A context in one of the two places. -/
def Moves.holds (m : Moves) (c : Context) : Prop := m.active = some c ∨ m.pending = some c

theorem Moves.holds_of_at {m : Moves} {p : Place} {c : Context} (h : m.at p = some c) : m.holds c := by
  cases p
  · exact .inl h
  · exact .inr h

/-- What a chain of changes leaves: the numbers kept apart, and each context of `n` either new, or one of `m` at a later
time. -/
structure Moves.Follows (m n : Moves) : Prop where
  serials : n.serialsFit
  grows : m.nextSerial ≤ n.nextSerial
  traced : ∀ d, n.holds d → m.nextSerial ≤ d.serial ∨ ∃ c, m.holds c ∧ c.Continues d

theorem Moves.serialsFit.below {m : Moves} (h : m.serialsFit) {c : Context} (hc : m.holds c) :
    c.serial < m.nextSerial := by
  obtain hc | hc := hc
  · exact h.1 c hc
  · exact h.2.1 c hc

theorem Moves.Follows.refl {m : Moves} (h : m.serialsFit) : m.Follows m :=
  ⟨h, le_refl _, fun d hd => .inr ⟨d, hd, .refl⟩⟩

theorem Moves.Follows.trans {m n k : Moves} (h : m.Follows n) (g : n.Follows k) : m.Follows k := by
  refine ⟨g.serials, h.grows.trans g.grows, fun e he => ?_⟩
  obtain hnew | ⟨d, hd, hde⟩ := g.traced e he
  · exact .inl (h.grows.trans hnew)
  · obtain hnew | ⟨c, hc, hcd⟩ := h.traced d hd
    · exact .inl (hde.1 ▸ hnew)
    · exact .inr ⟨c, hc, hcd.trans hde⟩

theorem Moves.serialsFit_iff_alone {m : Moves} (hp : m.pending = none) :
    m.serialsFit ↔ ∀ a ∈ m.active, a.serial < m.nextSerial := by
  simp [Moves.serialsFit, hp]

/-- Contexts with the numbers of those they replace, or none: the numbers stay apart. -/
theorem Moves.serialsFit.put {m : Moves} (h : m.serialsFit) {p : Place} {x : Option Context}
    (hx : ∀ d ∈ x, ∃ c, m.at p = some c ∧ d.serial = c.serial) : (m.put p x).serialsFit := by
  obtain ⟨ha, hp, hne⟩ := h
  cases p with
  | active =>
    refine ⟨fun d hd => ?_, hp, fun d hd q hq => ?_⟩ <;> obtain ⟨c, hc, e⟩ := hx d hd <;> rw [e]
    · exact ha c hc
    · exact hne c hc q hq
  | pending =>
    refine ⟨ha, fun d hd => ?_, fun a haa d hd => ?_⟩ <;> obtain ⟨c, hc, e⟩ := hx d hd <;> rw [e]
    · exact hp c hc
    · exact hne a haa c hc

theorem Moves.holds_put {m : Moves} {p : Place} {x : Option Context} {d : Context} (h : (m.put p x).holds d) :
    x = some d ∨ m.holds d := by
  cases p with
  | active => exact h.imp id .inr
  | pending =>
    obtain h | h := h
    · exact .inr (.inl h)
    · exact .inl h

theorem Moves.Change.follows {m n : Moves} (h : m.Change n) (hm : m.serialsFit) : m.Follows n := by
  cases h with
  | noted a => exact ⟨hm, le_refl _, fun d hd => .inr ⟨d, hd, .refl⟩⟩
  | dropped p =>
    refine ⟨hm.put (by simp), by cases p <;> exact le_refl _, fun d hd => .inr ⟨d, ?_, .refl⟩⟩
    exact (Moves.holds_put hd).resolve_left (by simp)
  | @continued p c e hc he =>
    refine ⟨hm.put fun d hd => ⟨c, hc, ?_⟩, by cases p <;> exact le_refl _, fun d hd => .inr ?_⟩
    · cases hd
      exact he.1
    · obtain hd | hd := Moves.holds_put hd
      · cases hd
        exact ⟨c, Moves.holds_of_at hc, he⟩
      · exact ⟨d, hd, .refl⟩
  | @promoted c e hc he =>
    refine ⟨(Moves.serialsFit_iff_alone rfl).mpr fun d hd => ?_, le_refl _, fun d hd => .inr ⟨c, .inr hc, ?_⟩⟩
    · cases hd
      exact he.1 ▸ hm.2.1 c hc
    · obtain hd | hd := hd <;> cases hd
      exact he
  | @created p e he =>
    obtain ⟨ha, hp, hne⟩ := hm
    refine ⟨?_, Nat.le_succ_of_le (by cases p <;> exact le_refl _), fun d hd => ?_⟩
    · cases p with
      | active =>
        refine ⟨fun d hd => ?_, fun q hq => Nat.lt_succ_of_lt (hp q hq), fun d hd q hq => ?_⟩ <;> cases hd <;> rw [he]
        · exact Nat.lt_succ_self _
        · exact (hp q hq).ne'
      | pending =>
        refine ⟨fun a haa => Nat.lt_succ_of_lt (ha a haa), fun d hd => ?_, fun a haa d hd => ?_⟩ <;> cases hd <;> rw [he]
        · exact Nat.lt_succ_self _
        · exact (ha a haa).ne
    · obtain hd | hd := Moves.holds_put (m := m) (p := p) (x := some e) hd
      · cases hd
        exact .inl he.ge
      · exact .inr ⟨d, hd, .refl⟩

theorem Moves.Evolves.follows {m n k : Moves} (h : m.Follows n) (he : n.Evolves k) : m.Follows k := by
  induction he with
  | refl => exact h
  | tail _ hc ih => exact ih.trans (hc.follows ih.serials)

theorem Moves.joinSent_follows {m n : Moves} (h : m.Follows n) (serial : Option Nat) : m.Follows (n.joinSent serial) := by
  have hs : ∀ c : Context, (c.joinSent serial).serial = c.serial := fun c => (c.continues_joinSent serial).1
  obtain ⟨ha, hp, hne⟩ := h.serials
  refine h.trans ⟨⟨fun d hd => ?_, fun d hd => ?_, fun d hd e he => ?_⟩, le_refl _, fun d hd => .inr ?_⟩
  · obtain ⟨c, hc, rfl⟩ := Option.map_eq_some_iff.mp hd
    exact hs c ▸ ha c hc
  · obtain ⟨c, hc, rfl⟩ := Option.map_eq_some_iff.mp hd
    exact hs c ▸ hp c hc
  · obtain ⟨c, hc, rfl⟩ := Option.map_eq_some_iff.mp hd
    obtain ⟨q, hq, rfl⟩ := Option.map_eq_some_iff.mp he
    rw [hs c, hs q]
    exact hne c hc q hq
  · obtain hd | hd := hd <;> obtain ⟨c, hc, rfl⟩ := Option.map_eq_some_iff.mp hd
    · exact ⟨c, .inl hc, c.continues_joinSent serial⟩
    · exact ⟨c, .inr hc, c.continues_joinSent serial⟩

theorem Moves.follows_kept (m : Moves) : Moves.Kept (fun _ => True) m.Follows where
  halted {s} h := s.haltContexts_evolves.follows h
  stale {s} n h := (s.staleNotice_evolves n).follows h
  updated {s} n h := (s.updateNotice_evolves n).follows h
  reacted {s} h := by
    obtain ⟨k, ho, he, e⟩ := s.moveReaction_evolves
    obtain ⟨hs, hg, ht⟩ := he.follows h
    rw [e]
    exact ⟨hs, hg, ht⟩
  sent serial h := Moves.joinSent_follows h serial
  joined {s} src own moveId h := (s.joinAt_evolves src own moveId).follows h
  cued hc ho h := (ho.evolves hc).follows h
  superseded {s} _ h := s.supersede_evolves.follows h
  armed {s pl p} moveId slot _ _ h := (s.acceptArm_evolves pl moveId slot p).follows h
  approached {s p} slot _ _ h := (s.beginApproach_evolves slot p).follows h

/-- Two contexts of one state with the same number are the same. -/
theorem Moves.serialsFit.eq_of_serial {m : Moves} (h : m.serialsFit) {c d : Context} (hc : m.holds c) (hd : m.holds d)
    (e : c.serial = d.serial) : c = d := by
  obtain ⟨-, -, hne⟩ := h
  obtain hc | hc := hc <;> obtain hd | hd := hd
  · exact Option.some_injective _ (hc.symm.trans hd)
  · exact absurd e (hne c hc d hd)
  · exact absurd e.symm (hne d hd c hc)
  · exact Option.some_injective _ (hc.symm.trans hd)

/-- Settles O59: a step is a chain of elementary changes of the contexts, or a start, which leaves none. -/
theorem stepKeepsFrozenSets : Obligations.StepKeepsFrozenSets := by
  unfold Obligations.StepKeepsFrozenSets
  intro s t hs h
  obtain ⟨q, he⟩ := step_effect h
  obtain hm | hm := (Moves.follows_kept s.moves).effect (s := s.withQueue q) (fun _ _ _ => trivial) (.refl hs) he
  · refine ⟨hm.serials, fun c hc hg d hd e => ?_⟩
    obtain hnew | ⟨b, hb, hbd⟩ := hm.traced d hd
    · have := hs.below hc
      omega
    · cases hs.eq_of_serial hb hc (hbd.1.symm.trans e)
      exact hbd.2 hg
  · rw [hm]
    refine ⟨by simp [Moves.serialsFit, Moves.reset], fun c _ _ d hd _ => ?_⟩
    obtain hd | hd := hd <;> cases hd

end Sys2Proof.Machine
end

section
/-! The machine as a whole, and its starts: a step, the queue, resets and the reset line. -/

namespace Sys2Proof.Machine

/-! ## The queue of commands -/

theorem State.background_pending (s : State) : s.background.pending = s.pending := by
  unfold State.background
  split
  · split
    · split <;> rfl
    · rfl
  all_goals rfl

theorem State.storeCompletes_pending (s : State) (good : Bool) : (s.storeCompletes good).pending = s.pending := by
  unfold State.storeCompletes
  split
  · rfl
  · split <;> rfl

theorem State.unlocked_pending (s : State) : s.unlocked.pending = s.pending := by
  unfold State.unlocked
  split <;> rfl

theorem State.cleared_pending (s : State) : s.cleared.pending = s.pending := by
  unfold State.cleared
  split
  · exact (State.enter_only { s with axis := { s.axis with haltLatch := false, cause := .none } } _).pending
  · exact (State.enter_only (s.setCause .none) _).pending
  all_goals rfl

theorem ArmOutcome.pending {s t : State} {tag : Byte} (h : ArmOutcome s tag t) : t.pending = s.pending := by
  cases h with
  | refused => rfl
  | superseded => exact s.supersede_only.pending
  | @accepted _ slot p _ u hu pl _ moveId =>
    refine (u.acceptArm_only pl moveId slot p).pending.trans ?_
    obtain rfl | ⟨rfl, -⟩ := hu
    · rfl
    · exact s.supersede_only.pending

theorem ServiceAct.pending {s t : State} {tag : Byte} (h : ServiceAct s tag t) : t.pending = s.pending := by
  cases h with
  | queried | captured | undone | emptied | committed | approached | unparking => rfl
  | deleted slot =>
    unfold State.beginErase
    split <;> rfl
  | unprotected slot =>
    unfold State.beginUnprotect
    split
    · split <;> rfl
    all_goals rfl
  | parked | unparked => exact (s.enter_only _).pending
  | cleared => exact s.unlocked.cleared_pending.trans s.unlocked_pending
  | unlocked => exact s.unlocked_pending

theorem ServiceOutcome.pending {s t : State} {tag : Byte} (h : ServiceOutcome s tag t) : t.pending = s.pending := by
  cases h with
  | refused | restarted => rfl
  | done ha => exact (ha.pending :)

theorem Arrival.pending {s t : State} (h : Arrival s t) : t.pending = s.pending := by
  cases h with
  | unconcerned | surge => rfl
  | halt => exact s.halt_only.pending
  | arm ho => exact ho.pending
  | join => exact (s.joinAt_only ..).pending
  | cue _ ho tag rc => cases tag <;> exact ho.movesOnly.pending
  | stick src enable channels =>
    obtain ⟨p, e⟩ := s.stickArrives_eq src enable channels
    rw [e]
  | state src own r =>
    unfold State.stateArrives
    split
    · exact s.clash_only.pending
    · exact (State.updateNotice_only (s.writeEntry src (entryOf r)) src).pending
  | service ho => exact ho.pending

theorem State.react_pending (s : State) (input : ExpiryInput) (b : Block) : (s.react input b).pending = s.pending := by
  cases b <;> simp only [State.react]
  case peers => exact s.peerReaction_only.pending
  case moves => exact s.moveReaction_only.pending
  case surge => rfl
  case axis => exact s.axisReaction_only.pending
  case lines => exact (s.lineReaction_frame _).1
  case store => exact (s.storeReaction_frame _).1
  case setpoint => exact s.setpointOperation_frame.1

theorem Effect.pending {s t : State} (h : Effect s t) : t.pending = s.pending := by
  cases h with
  | nothing | begun | held | lineIdle => rfl
  | background => exact s.background_pending
  | expiry input =>
    exact State.expiry_keeps (P := fun u => u.pending = s.pending) input
      (fun u b hu => (u.react_pending input b).trans hu) rfl
  | reaction input b => exact s.react_pending input b
  | profileDecision answered =>
    unfold State.profileStep
    split
    · rfl
    · exact (s.decideProfile answered).finishStarting_only.pending
  | slotCheckEnd =>
    obtain e | ⟨st, e⟩ := s.slotStep_outcome <;> rw [e]
    exact (State.finishStarting_only { s with store := st }).pending
  | driveAnswer number position ready =>
    exact (State.finishStarting_only { s with drive := s.drive.take number position ready }).pending
  | storeCompletion good => exact s.storeCompletes_pending good
  | departure =>
    obtain e | ⟨o, ho⟩ := s.departs_outcome
    · rw [e]
    · generalize s.departs = u at ho ⊢
      cases ho <;> rfl
  | unacknowledged =>
    obtain ⟨l, e | e⟩ := s.returns_outcome <;> rw [e]
    exact (State.starved_only { s with link := l }).pending
  | arrival ha => exact ha.pending

/-- Settles O2: every command is an effect, and none of them touches the queue. -/
theorem everyCommandCompletesAndKeepsTheQueue : Obligations.EveryCommandCompletesAndKeepsTheQueue := by
  unfold Obligations.EveryCommandCompletesAndKeepsTheQueue
  intro c s
  obtain ⟨t, ht, he⟩ := exec_effect c s
  exact ⟨t, ht, he.pending⟩

/-- Settles O1: the front command, or the background, which the store operation decides. -/
theorem stepRunsFrontCommand : Obligations.StepRunsFrontCommand := by
  unfold Obligations.StepRunsFrontCommand
  refine ⟨fun c rest s => rfl, fun s hp hop => ?_, fun s k hk hp hop hl => ?_⟩
  · have hb : s.background = s := by
      unfold State.background
      split
      · exact absurd ‹_› (hop _)
      all_goals rfl
    simp only [step, hp, hb]
  · have hb : s.background = { s with store := { s.store.decideSlot ⟨k, by omega⟩ with op := .checking (k + 1) } } := by
      simp only [State.background, hop, dif_pos hk, hl, if_true]
    simp only [step, hp, hb]
    rfl

/-! ## Starts -/

theorem Store.cutRegions_false (st : Store) : st.cutRegions false = st.regions := by
  unfold Store.cutRegions
  split <;> rfl

theorem State.atStart_entry (straps : Station) (regions : Vector Region 48) (queue : List Instr) (n : Station) :
    (State.atStart straps regions queue).entry n = none := by
  simp [State.entry, State.atStart, Peers.reset]

/-- Settles O3: a start is `State.atStart`, whose fields are the reset values. -/
theorem powerOnGivesEveryBlockItsResetValues : Obligations.PowerOnGivesEveryBlockItsResetValues := by
  unfold Obligations.PowerOnGivesEveryBlockItsResetValues
  intro straps b s hr
  have he : exec (.powerOnReset straps b) s = .next (s.begun straps b) := by
    change Host.Outcome.next _ = _
    rw [hr]
    rfl
  refine ⟨_, he, rfl, rfl, rfl, rfl, rfl, rfl, State.atStart_entry _ _ _, rfl, rfl, rfl, rfl, rfl, rfl, rfl, rfl, rfl,
    fun k => ?_, ?_, rfl, rfl⟩
  · simp [State.begun, State.atStart, Store.reset]
  · rintro rfl
    exact s.store.cutRegions_false

/-- An event that cannot come about changes nothing. -/
theorem whenAble_dead {a b : Bool} {s t : State} (h : a = false) : whenAble (a && b) s t = .next s := by
  rw [h]
  rfl

/-- A node that does not run takes no command but a reset (R173, R180; log entry 5). -/
theorem exec_of_dead {s : State} (hl : s.live = false) {c : Instr} (hp : ∀ a b, c ≠ .powerOnReset a b)
    (hr : ∀ e, c ≠ .resetLine e) : exec c s = .next s := by
  have ht : s.timerRuns = false := by rw [State.timerRuns, hl, Bool.false_and]
  cases c with
  | powerOnReset a b => exact absurd rfl (hp a b)
  | resetLine e => exact absurd rfl (hr e)
  | periodExpiry input =>
    change whenAble s.timerRuns s _ = _
    rw [ht, whenAble_unable]
  | gatherExpiry | armExpiry | moveFire | holdRampEnd | resumeRampEnd | resumeGapEnd | playbackFinish | dwellEnd
  | fadeOutEnd | surgeEntryExpiry | peerStale | stickStale | storeTimeLimit | driveSilent | followingError =>
    exact whenAble_dead ht
  | grantEnd | linkStarved | estopActive | driveFaultActive | brakeTimeout =>
    exact whenAble_dead (by rw [ht, Bool.false_and])
  | brakeSettleEnd => exact whenAble_dead (by rw [ht, Bool.false_and, Bool.false_and])
  | startingEnd last => exact whenAble_dead hl
  | profileDecision | slotCheckEnd | driveAnswer | storeCompletion | lineIdle | frameDeparture | frameUnacknowledged =>
    change whenAble s.live s _ = _
    rw [hl, whenAble_unable]
  | halt | surge | arm | join | go | hold | resume | release | cancel | stick | stateArrival | descriptorArrival
  | query | capture | undo | editClear | commit | delete | unprotect | gotoStart | park | unpark | clear | restart =>
    exact whenAble_dead hl

/-- Settles O4: the held line's state, the node that does not run, and the start at the release. -/
theorem resetLineHoldsAndReleases : Obligations.ResetLineHoldsAndReleases := by
  unfold Obligations.ResetLineHoldsAndReleases
  refine ⟨fun s => ⟨_, rfl, rfl, rfl, rfl, rfl, s.store.cutRegions_false, rfl⟩, fun s c hr hp he => ?_,
    fun s straps => ⟨_, rfl, rfl, rfl, rfl, rfl, rfl, rfl, s.store.cutRegions_false, rfl⟩⟩
  exact exec_of_dead (by rw [State.live, hr]; simp) hp he

/-- Settles O54: the reset state is a start, which meets each invariant. -/
theorem invariantsHoldAtReset : Obligations.InvariantsHoldAtReset := by
  unfold Obligations.InvariantsHoldAtReset
  refine ⟨AxisSafe.atStart .., OwedSafe.of_owed_zero rfl, LanesSafe.of_reset rfl, SurgeSafe.of_reset rfl,
    StoreSafe.reset _, (movesSafe_iff _).mpr Moves.fit_reset, ?_⟩
  simp [Moves.serialsFit, State.reset, State.atStart, Moves.reset]

end Sys2Proof.Machine
end

section
/-! The profile decision (R175 to R177): its judgement stage by stage, and the end of NS_STARTING (R134). -/

namespace Sys2Proof

/-! ## The judgement -/

section
variable {img : List Byte} {n : Station}

theorem judgeProfile_short {answered : List Byte} (h : answered.length < 56) :
    judgeProfile answered n = (.unreadable, none) := if_pos h

theorem judgeProfile_whole {answered : List Byte} (h : 56 ≤ answered.length) :
    judgeProfile answered n = judgeImage (answered.take 56) n := if_neg (not_lt.mpr h)

theorem judgeImage_erased (h : ∀ b ∈ img, b = 0xFF) : judgeImage img n = (.blank, none) := by
  have ha : img.all (· == 0xFF) = true := List.all_eq_true.mpr fun b hb => beq_iff_eq.mpr (h b hb)
  simp only [judgeImage, ha, if_true]

theorem not_erased (h : ∃ b ∈ img, b ≠ 0xFF) : img.all (· == 0xFF) = false := by
  obtain ⟨b, hb, hne⟩ := h
  exact List.all_eq_false.mpr ⟨b, hb, by simpa using hne⟩

theorem firstOutOfRange_some {before after : List (Nat × Bool)} {off : Nat}
    (h : rangeTests img = before ++ (off, false) :: after) (hb : ∀ x ∈ before, x.2 = true) :
    firstOutOfRange img = some off := by
  have hn : before.find? (fun t => !t.2) = none := List.find?_eq_none.mpr fun x hx => by simp [hb x hx]
  simp [firstOutOfRange, h, List.find?_append, hn]

theorem firstOutOfRange_eq_none (h : ∀ x ∈ rangeTests img, x.2 = true) : firstOutOfRange img = none := by
  have hn : (rangeTests img).find? (fun t => !t.2) = none := List.find?_eq_none.mpr fun x hx => by simp [h x hx]
  rw [firstOutOfRange, hn, Option.map_none]

variable (hne : ∃ b ∈ img, b ≠ 0xFF)
include hne

theorem judgeImage_checkFailed (hc : bytes32 (crc32 (img.take 52)) ≠ img.drop 52) :
    judgeImage img n = (.checkFailed, none) := by
  simp only [judgeImage, not_erased hne, Bool.false_eq_true, if_false, if_pos hc]

variable (hc : bytes32 (crc32 (img.take 52)) = img.drop 52)
include hc

theorem judgeImage_outOfRange {off : Nat} (hr : firstOutOfRange img = some off) :
    judgeImage img n = (.outOfRange, some off) := by
  simp only [judgeImage, not_erased hne, Bool.false_eq_true, if_false, hc, ne_eq, not_true_eq_false, hr]

variable (hr : firstOutOfRange img = none)
include hr

/-- What is judged of an image whose fields lie in their ranges (checks 4 to 7 of R177). -/
theorem judgeImage_inRange : judgeImage img n =
    if (readProfile img).aHigh < (readProfile img).aLow ∨ (readProfile img).aStop < (readProfile img).aHigh then
      (.accelOrder, none)
    else if (readProfile img).pMax ≤ (readProfile img).pMin then (.limitOrder, none)
    else match firstOwnSource img n with
    | some off => (.ownSource, some off)
    | none => if (readProfile img).mask.estop then (.estopMasked, none) else (.good, none) := by
  simp only [judgeImage, not_erased hne, Bool.false_eq_true, if_false, hc, ne_eq, not_true_eq_false, hr, gt_iff_lt,
    ge_iff_le] <;> rfl

theorem judgeImage_accelOrder
    (h : (readProfile img).aHigh < (readProfile img).aLow ∨ (readProfile img).aStop < (readProfile img).aHigh) :
    judgeImage img n = (.accelOrder, none) := by rw [judgeImage_inRange hne hc hr, if_pos h]

variable (hl : (readProfile img).aLow ≤ (readProfile img).aHigh) (hh : (readProfile img).aHigh ≤ (readProfile img).aStop)
include hl hh

theorem judgeImage_limitOrder (h : (readProfile img).pMax ≤ (readProfile img).pMin) :
    judgeImage img n = (.limitOrder, none) := by
  rw [judgeImage_inRange hne hc hr, if_neg (by omega), if_pos h]

variable (hp : (readProfile img).pMin < (readProfile img).pMax)
include hp

theorem judgeImage_ownSource {off : Nat} (h : firstOwnSource img n = some off) :
    judgeImage img n = (.ownSource, some off) := by
  rw [judgeImage_inRange hne hc hr, if_neg (by omega), if_neg (by omega), h]

theorem judgeImage_lastTest (h : firstOwnSource img n = none) : judgeImage img n =
    if (readProfile img).mask.estop = true then (.estopMasked, none) else (.good, none) := by
  rw [judgeImage_inRange hne hc hr, if_neg (by omega), if_neg (by omega), h]

end

section
variable {img : List Byte} {n : Station}

theorem firstOwnSource_follow (h : (readProfile img).followSource = some n) : firstOwnSource img n = some 40 := if_pos h

theorem firstOwnSource_ext (h : (readProfile img).followSource ≠ some n) (ht : (readProfile img).role.hasTip = true)
    (he : (readProfile img).extSource = some n) : firstOwnSource img n = some 43 := by
  simp only [firstOwnSource, if_neg h, ht, he, and_self, if_true]

theorem firstOwnSource_none (h : (readProfile img).followSource ≠ some n)
    (he : (readProfile img).role.hasTip = true → (readProfile img).extSource ≠ some n) : firstOwnSource img n = none := by
  simp only [firstOwnSource, if_neg h]
  exact if_neg fun hc => he hc.1 hc.2

end

/-! ## The ranges of a GOOD profile -/

theorem of_inRange {lo hi x : Int} (h : inRange lo hi x = true) : lo ≤ x ∧ x ≤ hi := of_decide_eq_true h

theorem abs_le_of_inRange {b x : Int} (h : inRange (-b) b x = true) : |x| ≤ b := abs_le.mpr (of_inRange h)

theorem of_stationByteOk {b : Byte} (h : stationByteOk b = true) : b.toNat < 16 ∨ b = 0xFF := by
  obtain h | h := Bool.or_eq_true_iff.mp h
  · exact .inl (of_decide_eq_true h)
  · exact .inr (beq_iff_eq.mp h)

/-- The tests of a field that is checked for SWING and LIFT alone. -/
theorem of_tipTest {tip b : Bool} (h : (!tip || b) = true) (ht : tip = true) : b = true := by
  rw [ht] at h
  exact h

namespace Machine

/-- While the slot check runs NS_STARTING has another condition open. -/
theorem State.finishStarting_of_checking {s : State} {k : Nat} (h : s.store.op = .checking k) :
    s.finishStarting = s :=
  if_neg fun hc => by simp [State.startingDone, h] at hc

/-- Settles O5: the decision writes the start's fields; the judgement stage by stage; the ranges of a GOOD profile. -/
theorem profileDecisionSetsTheProfile : Obligations.ProfileDecisionSetsTheProfile := by
  unfold Obligations.ProfileDecisionSetsTheProfile
  refine ⟨fun answered s k hl hr hop => ?_, fun answered n => ?_⟩
  · change whenAble s.live s (s.profileStep answered) = _
    have hd : s.start.decided = false := by rw [StartUp.decided, hr]; rfl
    have hf : (s.decideProfile answered).finishStarting = s.decideProfile answered :=
      State.finishStarting_of_checking (s := s.decideProfile answered) hop
    rw [hl, whenAble_able, State.profileStep, hd, if_neg Bool.false_ne_true, hf]
    rfl
  · dsimp only
    refine ⟨judgeProfile_short, fun h56 he => ?_, fun h56 hne => ?_, fun hg => ?_⟩
    · rw [judgeProfile_whole h56, judgeImage_erased he]
    · rw [judgeProfile_whole h56]
      refine ⟨judgeImage_checkFailed hne, fun hc => ⟨fun before off after h hb => ?_, fun hall => ?_⟩⟩
      · exact judgeImage_outOfRange hne hc (firstOutOfRange_some h hb)
      · have hr := firstOutOfRange_eq_none hall
        refine ⟨judgeImage_accelOrder hne hc hr, fun ho hh => ⟨judgeImage_limitOrder hne hc hr ho hh, fun hp => ⟨?_, ?_, ?_⟩⟩⟩
        · exact fun h => judgeImage_ownSource hne hc hr ho hh hp (firstOwnSource_follow h)
        · exact fun h ht he => judgeImage_ownSource hne hc hr ho hh hp (firstOwnSource_ext h ht he)
        · exact fun h he => judgeImage_lastTest hne hc hr ho hh hp (firstOwnSource_none h he)
    · obtain ⟨-, hr, ho, hh, -⟩ := judgeProfile_good hg
      have hall := firstOutOfRange_none hr
      generalize List.take 56 answered = img at *
      simp only [rangeTests, List.forall_mem_cons] at hall
      obtain ⟨t0, t1, t5, t9, t13, t17, t19, t23, t27, t31, -, t35, t37, t38, t39, t40, t41, t43, -, t46, t48, t50, t51, -⟩ :=
        hall
      have hv := of_inRange t19
      have hb := of_inRange t48
      refine ⟨of_decide_eq_true t0, abs_le_of_inRange t1, abs_le_of_inRange t5, fun ht => ?_, hv.1, hv.2, (of_inRange t23).1,
        (of_inRange t23).2, (of_inRange t27).1, (of_inRange t27).2, (of_inRange t31).1, (of_inRange t35).2,
        (of_inRange t37).1, (of_inRange t37).2, of_decide_eq_true t38, of_stationByteOk t39, of_stationByteOk t40,
        abs_le_of_inRange t41, (of_inRange t46).1, ?_, ?_, of_decide_eq_true t50, of_decide_eq_true t51⟩
      · have h9 := of_inRange (of_tipTest t9 ht)
        have h13 := of_inRange (of_tipTest t13 ht)
        have h17 := of_inRange (of_tipTest t17 ht)
        exact ⟨h9.1, h9.2, h13.1, h13.2, h17.1, h17.2, of_stationByteOk (of_tipTest t43 ht)⟩
      · exact_mod_cast hb.1
      · exact_mod_cast hb.2

/-! ## The end of NS_STARTING -/

section
variable {s : State}

/-- With a refused profile the end of the slot check is the last condition. -/
theorem State.startingDone_of_refused (hd : s.start.status ≠ .reading) (hr : s.start.status ≠ .good)
    (hop : s.store.op = .idle) : s.startingDone = true := by
  have h1 : s.start.decided = true := by simpa [StartUp.decided] using hd
  have h2 : s.start.accepted = false := by simpa [StartUp.accepted] using hr
  simp only [State.startingDone, h1, h2, hop, Bool.not_false, Bool.true_or, Bool.and_self]

theorem State.leaveStarting_refused (hr : s.start.status ≠ .good) : s.leaveStarting = (s.enter .configFault).setCause
    (if s.axis.cause = .linkStarved ∧ s.link.owed = Config.owedLimit then .linkStarved else .config) := by
  have h2 : s.start.accepted = false := by simpa [StartUp.accepted] using hr
  simp only [State.leaveStarting, h2, Bool.not_false, if_true]

theorem State.leaveStarting_accepted (hg : s.start.status = .good) :
    s.leaveStarting = s.enter (if s.axis.startFault = true then .faulted else .braked) := by
  have h2 : s.start.accepted = true := by simpa [StartUp.accepted] using hg
  simp only [State.leaveStarting, h2, Bool.not_true, Bool.false_eq_true, if_false]
  split <;> rfl

/-- The blocks that the end of NS_STARTING leaves: the link and the contexts stand, as no context gathers there. -/
theorem State.enter_frame_of_starting (h : s.axis.nodeState = .starting) (n : NodeState) :
    (s.enter n).link = s.link ∧ (s.enter n).moves = s.moves ∧ (s.enter n).axis = s.axis.entered n ∧
      s.AxisOnly (s.enter n) := by
  have hne : s.axis.nodeState ≠ .active := by rw [h]; decide
  exact ⟨State.enter_link hne n, State.enter_moves_standing hne n, s.enter_axis n, s.enter_only n⟩

/-- NS_STARTING's end with a refused profile (R135): NS_CONFIG_FAULT, the cause by the owed count, all else as it was. -/
theorem State.finishStarting_refused (h : s.axis.nodeState = .starting) (hd : s.start.status ≠ .reading)
    (hr : s.start.status ≠ .good) (hop : s.store.op = .idle) :
    s.finishStarting.axis.nodeState = .configFault ∧
      s.finishStarting.axis.cause =
        (if s.axis.cause = .linkStarved ∧ s.link.owed = 9 then .linkStarved else .config) ∧
      s.finishStarting.axis.haltLatch = s.axis.haltLatch ∧
      s.finishStarting.link = s.link ∧ s.finishStarting.moves = s.moves ∧ s.AxisOnly s.finishStarting := by
  obtain ⟨hl, hm, ha, ho⟩ := State.enter_frame_of_starting h .configFault
  rw [State.finishStarting_of_done h (State.startingDone_of_refused hd hr hop), State.leaveStarting_refused hr]
  refine ⟨?_, rfl, ?_, hl, hm, ho.trans (State.setCause_only _ _)⟩
  · change (s.enter .configFault).axis.nodeState = _
    rw [ha]
    rfl
  · change (s.enter .configFault).axis.haltLatch = _
    rw [ha]
    rfl

/-- NS_STARTING's end with an accepted profile (R134): NS_BRAKED, but NS_FAULTED with the start fault. -/
theorem State.finishStarting_accepted {pos : Int} (h : s.axis.nodeState = .starting) (hg : s.start.status = .good)
    (hop : s.store.op = .idle) (hheard : s.drive.actual = some pos) :
    s.finishStarting.axis.nodeState = (if s.axis.startFault = true then .faulted else .braked) ∧
      s.finishStarting.axis.cause = s.axis.cause ∧ s.finishStarting.axis.haltLatch = s.axis.haltLatch ∧
      s.finishStarting.link = s.link ∧ s.finishStarting.moves = s.moves ∧ s.AxisOnly s.finishStarting := by
  have hacc : s.start.accepted = true := by simpa [StartUp.accepted] using hg
  obtain ⟨hl, hm, ha, ho⟩ := State.enter_frame_of_starting h (if s.axis.startFault = true then .faulted else .braked)
  rw [State.finishStarting_of_done h (State.startingDone_of_heard hacc hop hheard), State.leaveStarting_accepted hg]
  exact ⟨by rw [ha]; rfl, by rw [ha]; rfl, by rw [ha]; rfl, hl, hm, ho⟩

/-- STARTING_END is the event of its operand where that ends NS_STARTING (log entry 1). -/
theorem exec_startingEnd {last : StartingLast} (hl : s.live = true) (h : s.axis.nodeState = .starting)
    (he : (s.lastStep last).axis.nodeState ≠ .starting) : exec (.startingEnd last) s = .next (s.lastStep last) := by
  change whenAble (s.live && decide _) s _ = _
  rw [hl, decide_eq_true ⟨h, he⟩]
  rfl

/-- The store once the slot check is over. -/
def Store.checkEnded (st : Store) (k : Nat) : Store := { (slotsFrom k).foldl Store.decideSlot st with op := .idle }

theorem State.slotStep_of_checking {k : Nat} (h : s.store.op = .checking k) :
    s.slotStep = ({ s with store := s.store.checkEnded k }).finishStarting := by
  simp only [State.slotStep, h]
  rfl

theorem State.profileStep_of_reading (h : s.start.status = .reading) (answered : List Byte) :
    s.profileStep answered = (s.decideProfile answered).finishStarting := by
  have hd : s.start.decided = false := by rw [StartUp.decided, h]; rfl
  rw [State.profileStep, hd, if_neg Bool.false_ne_true]

end

/-- The status a decision gives is never READING. -/
theorem judgeProfile_ne_reading (answered : List Byte) (n : Station) : (judgeProfile answered n).1 ≠ .reading := by
  unfold judgeProfile judgeImage
  dsimp only
  repeat' split
  all_goals simp

theorem cause_of_owed {c : FaultCause} {owed : Nat} (h : owed < 9) :
    (if c = .linkStarved ∧ owed = 9 then FaultCause.linkStarved else .config) = .config :=
  if_neg fun hc => by omega

/-- Settles O7: the last condition, whichever it is, and the state that its event enters. -/
theorem startingEndsByItsLastCondition : Obligations.StartingEndsByItsLastCondition := by
  unfold Obligations.StartingEndsByItsLastCondition
  intro s hl hs
  refine ⟨fun answered hr hop hj => ?_, fun k hd hr hop => ?_, fun k hg hop hheard => ?_,
    fun e number pos ready hg hop hex hn => ?_⟩
  · obtain ⟨h1, h2, h3, h4, h5, h6⟩ := State.finishStarting_refused (s := s.decideProfile answered) hs
      (judgeProfile_ne_reading _ _) hj hop
    have he : s.lastStep (.profileDecision answered) = (s.decideProfile answered).finishStarting :=
      State.profileStep_of_reading hr answered
    refine ⟨_, exec_startingEnd hl hs (by rw [he, h1]; decide), ?_⟩
    rw [he]
    exact ⟨h1, fun hlt => h2.trans (cause_of_owed hlt), h4, h6.peers, h6.blend, h5, h6.store, h6.drive, h3⟩
  · obtain ⟨h1, h2, h3, h4, h5, h6⟩ := State.finishStarting_refused (s := { s with store := s.store.checkEnded k }) hs hd hr rfl
    have he : s.lastStep .slotCheckEnd = ({ s with store := s.store.checkEnded k }).finishStarting :=
      State.slotStep_of_checking hop
    refine ⟨_, exec_startingEnd hl hs (by rw [he, h1]; decide), ?_⟩
    rw [he]
    refine ⟨by rw [h6.store]; rfl, h1, fun hlt => h2.trans (cause_of_owed hlt), fun h9 hc => ?_, h4, h6.peers, h6.blend, h5,
      h6.drive, h6.start, h3⟩
    exact h2.trans (if_pos ⟨hc, h9⟩)
  · obtain ⟨pos, hpos⟩ := Option.isSome_iff_exists.mp hheard
    obtain ⟨h1, h2, h3, h4, h5, h6⟩ :=
      State.finishStarting_accepted (s := { s with store := s.store.checkEnded k }) hs hg rfl hpos
    have he : s.lastStep .slotCheckEnd = ({ s with store := s.store.checkEnded k }).finishStarting :=
      State.slotStep_of_checking hop
    refine ⟨_, exec_startingEnd hl hs (by rw [he, h1]; split <;> decide), ?_⟩
    rw [he]
    exact ⟨by rw [h6.store]; rfl, h2, h1, h4, h6.peers, h6.blend, h5, h6.drive, h6.start, h3⟩
  · have hheard := Drive.take_heard pos ready hex hn
    obtain ⟨h1, h2, h3, h4, h5, h6⟩ :=
      State.finishStarting_accepted (s := { s with drive := s.drive.take number pos ready }) hs hg hop hheard
    refine ⟨_, exec_startingEnd (last := .driveAnswer number pos ready) hl hs ?_, ?_⟩
    · refine fun hc => ?_
      have : (s.answerStep number pos ready).axis.nodeState = .starting := hc
      rw [State.answerStep, h1] at this
      revert this
      dsimp only
      split <;> decide
    · exact ⟨by rw [← hheard]; exact congrArg Drive.actual h6.drive, h2, h1, h4, h6.peers, h6.blend, h5, h6.store, h6.start, h3⟩

end Machine

end Sys2Proof
end

section
/-! The layouts of 12.1 and 12.2 read back: bytes and fields, frames (R162, R181) and preset records (R117, R182). -/

namespace Sys2Proof

/-! ## Bytes and fields -/

theorem byteOf_toNat {n : Nat} (h : n < 256) : (byteOf n).toNat = n := by
  rw [byteOf, BitVec.toNat_ofNat, Nat.mod_eq_of_lt h]

theorem byteOf_of_toNat (b : Byte) : byteOf b.toNat = b := BitVec.ofNat_toNat ..

theorem word16_toNat (hi lo : Byte) : (word16 hi lo).toNat = 256 * hi.toNat + lo.toNat := by
  rw [word16, BitVec.toNat_append, ← Nat.shiftLeft_add_eq_or_of_lt lo.isLt, Nat.shiftLeft_eq]
  omega

theorem word32_toNat (b3 b2 b1 b0 : Byte) :
    (word32 b3 b2 b1 b0).toNat = 16777216 * b3.toNat + 65536 * b2.toNat + 256 * b1.toNat + b0.toNat := by
  simp only [word32, BitVec.toNat_append]
  rw [← Nat.shiftLeft_add_eq_or_of_lt b2.isLt, ← Nat.shiftLeft_add_eq_or_of_lt b1.isLt,
    ← Nat.shiftLeft_add_eq_or_of_lt b0.isLt]
  simp only [Nat.shiftLeft_eq]
  omega

@[simp] theorem word16_bytes (w : BitVec 16) : word16 (w.extractLsb' 8 8) (w.extractLsb' 0 8) = w := by
  apply BitVec.eq_of_toNat_eq
  have := w.isLt
  simp only [word16_toNat, BitVec.extractLsb'_toNat, Nat.shiftRight_eq_div_pow]
  omega

@[simp] theorem word32_bytes (w : BitVec 32) :
    word32 (w.extractLsb' 24 8) (w.extractLsb' 16 8) (w.extractLsb' 8 8) (w.extractLsb' 0 8) = w := by
  apply BitVec.eq_of_toNat_eq
  have := w.isLt
  simp only [word32_toNat, BitVec.extractLsb'_toNat, Nat.shiftRight_eq_div_pow]
  omega

theorem bytes16_word (hi lo : Byte) : bytes16 (word16 hi lo) = [hi, lo] := by
  have h1 := hi.isLt
  have h0 := lo.isLt
  simp only [bytes16, List.cons.injEq, and_true]
  constructor <;> apply BitVec.eq_of_toNat_eq <;>
    simp only [BitVec.extractLsb'_toNat, Nat.shiftRight_eq_div_pow, word16_toNat] <;> omega

theorem bytes32_word (b3 b2 b1 b0 : Byte) : bytes32 (word32 b3 b2 b1 b0) = [b3, b2, b1, b0] := by
  have h3 := b3.isLt
  have h2 := b2.isLt
  have h1 := b1.isLt
  have h0 := b0.isLt
  simp only [bytes32, List.cons.injEq, and_true]
  refine ⟨?_, ?_, ?_, ?_⟩ <;> apply BitVec.eq_of_toNat_eq <;>
    simp only [BitVec.extractLsb'_toNat, Nat.shiftRight_eq_div_pow, word32_toNat] <;> omega

/-- A signed field of 32 bits holds every value the encodings ask for. -/
theorem toInt_ofInt32 {x : Int} (h1 : -2147483648 ≤ x) (h2 : x < 2147483648) : (BitVec.ofInt 32 x).toInt = x :=
  BitVec.toInt_ofInt_eq_self (by decide) (by simpa using h1) (by simpa using h2)

@[simp] theorem boolOfByte_byteOfBool (b : Bool) : boolOfByte (byteOfBool b) = some b := by cases b <;> rfl

@[simp] theorem easingOfByte_byte (e : Easing) : easingOfByte e.byte = some e := by cases e <;> rfl

theorem Easing.byte_of_read {b : Byte} {e : Easing} (h : easingOfByte b = some e) : e.byte = b := by
  unfold easingOfByte at h
  split at h
  · cases h
    exact Eq.symm ‹_›
  · split at h
    · cases h
      exact Eq.symm ‹_›
    · cases h

@[simp] theorem stationOfByte_val (n : Station) : stationOfByte (byteOf n.val) = some n := by
  have hn : n.val < 256 := by omega
  simp [stationOfByte, byteOf_toNat hn]

@[simp] theorem Role.ofCode_byte (r : Role) : Role.ofCode (byteOf r.code).toNat = some r := by cases r <;> rfl

@[simp] theorem NodeState.ofCode_byte (n : NodeState) : NodeState.ofCode (byteOf n.code).toNat = some n := by
  cases n <;> rfl

@[simp] theorem FaultCause.ofCode_byte (c : FaultCause) : FaultCause.ofCode (byteOf c.code).toNat = some c := by
  cases c <;> rfl

@[simp] theorem Phase.ofCode_byte (p : Phase) : Phase.ofCode (byteOf p.code).toNat = some p := by cases p <;> rfl

@[simp] theorem AbandonReason.ofCode_byte (a : AbandonReason) :
    AbandonReason.ofCode (byteOf a.code).toNat = some a := by cases a <;> rfl

@[simp] theorem ResultCode.ofCode_byte (rc : ResultCode) : ResultCode.ofCode (byteOf rc.code).toNat = some rc := by
  cases rc <;> rfl

/-- Two flags in the low bits of a byte. -/
theorem twoFlags (a b : Bool) : (byteOf ((if a then 1 else 0) + (if b then 2 else 0))).toNat < 4 ∧
    (byteOf ((if a then 1 else 0) + (if b then 2 else 0))).getLsbD 0 = a ∧
    (byteOf ((if a then 1 else 0) + (if b then 2 else 0))).getLsbD 1 = b := by
  cases a <;> cases b <;> decide

/-! ## Payloads -/

@[simp] theorem readCue_payload (tag : Option Byte) (moveId : Byte) : readCue (cuePayload tag moveId) = some (tag, moveId) := by
  cases tag <;> simp [readCue, cuePayload]

@[simp] theorem readChannels_bytes (cs : List Channel) :
    readChannels cs.length (cs.flatMap fun c => [byteOf c.role.code] ++ bytes16 c.deflection) = some cs := by
  induction cs with
  | nil => rfl
  | cons c cs ih =>
    simp only [bytes16, List.cons_append, List.nil_append] at ih
    simp only [bytes16, List.flatMap_cons, List.cons_append, List.nil_append, List.length_cons, readChannels,
      Role.ofCode_byte, word16_bytes, ih]

@[simp] theorem readOperation_bytes (op : Operation) : readOperation op.bytes = some op := by
  cases op with
  | commit slot auto protect fIn fOut dwell sTrim =>
    obtain ⟨hlt, h0, h1⟩ := twoFlags auto protect
    refine (if_pos hlt).trans ?_
    rw [h0, h1, word16_bytes, word16_bytes, word16_bytes, word16_bytes]
  | park mode => cases mode <;> rfl
  | capture dur easing =>
    change (easingOfByte easing.byte).map (Operation.capture (word16 (dur.extractLsb' 8 8) (dur.extractLsb' 0 8))) = _
    rw [easingOfByte_byte, word16_bytes, Option.map_some]
  | query | delete | unprotect | gotoStart => rfl
  | undo | editClear | unpark | clear | restart => decide

/-! ### STATE -/

/-- A move report is an abandon reason. -/
def isAbandon : Option MoveReport → Bool
  | some (.abandoned _) => true
  | some (.move _ _) | none => false

/-- The flags byte of a STATE payload as a function of its seven bits. -/
def flagByte (b0 b1 b2 b3 b4 b5 b6 : Bool) : Byte :=
  byteOf ((if b0 then 1 else 0) + (if b1 then 2 else 0) + (if b2 then 4 else 0) + (if b3 then 8 else 0) +
    (if b4 then 16 else 0) + (if b5 then 32 else 0) + (if b6 then 64 else 0))

theorem StateReport.flags_eq (r : StateReport) : r.flags = flagByte r.surgeGranted r.stickLost r.report.isSome
    (isAbandon r.report) r.parts.isSome r.timeline.isSome r.lastResult.isSome := by
  unfold StateReport.flags
  cases r.report with
  | none => rfl
  | some m => cases m <;> rfl

theorem flagByte_bits (b0 b1 b2 b3 b4 b5 b6 : Bool) :
    let f := flagByte b0 b1 b2 b3 b4 b5 b6
    f.getLsbD 0 = b0 ∧ f.getLsbD 1 = b1 ∧ f.getLsbD 2 = b2 ∧ f.getLsbD 3 = b3 ∧ f.getLsbD 4 = b4 ∧ f.getLsbD 5 = b5 ∧
      f.getLsbD 6 = b6 ∧ f.getLsbD 7 = false := by
  revert b0 b1 b2 b3 b4 b5 b6
  decide

theorem moveReport_read (m : Option MoveReport) :
    ∃ a b, moveReportBytes m = [a, b] ∧ readMoveReport m.isSome (isAbandon m) a b = some m := by
  cases m with
  | none => exact ⟨0, 0, rfl, rfl⟩
  | some m =>
    cases m with
    | move id ph => exact ⟨_, _, rfl, by simp [readMoveReport, isAbandon]⟩
    | abandoned a => exact ⟨_, _, rfl, by simp [readMoveReport, isAbandon]⟩

theorem lastResult_read (l : Option (Byte × ResultCode)) :
    ∃ a b, lastResultBytes l = [a, b] ∧ readLastResult l.isSome a b = some l := by
  cases l with
  | none => exact ⟨0, 0, rfl, rfl⟩
  | some l => exact ⟨_, _, rfl, by simp [readLastResult]⟩

theorem parts_read (m : Option StationSet) :
    readOptional m.isSome (m.getD 0 == 0) (m.getD 0) = some m := by
  cases m <;> simp [readOptional]

theorem timeline_read {t : Option Nat} (h : ∀ n, t = some n → n < 4294967296) :
    readOptional t.isSome (BitVec.ofNat 32 (t.getD 0) == 0) (BitVec.ofNat 32 (t.getD 0)).toNat = some t := by
  cases t with
  | none => rfl
  | some n =>
    have hn : n % 4294967296 = n := Nat.mod_eq_of_lt (h n rfl)
    simp [readOptional, hn]

theorem readState_bytes {r : StateReport} (h : r.within = true) : readState r.bytes = some r := by
  simp only [StateReport.within, Bool.and_eq_true] at h
  obtain ⟨⟨⟨⟨⟨hs, hv⟩, ho⟩, howed⟩, ht⟩, -⟩ := h
  have hs := of_decide_eq_true hs
  have hv := of_decide_eq_true hv
  have ho := of_decide_eq_true ho
  have howed := of_decide_eq_true howed
  have htl : ∀ n, r.timeline = some n → n < 4294967296 := by
    intro n hn
    rw [hn] at ht
    have := of_decide_eq_true ht
    simp only [Config.timelineMax] at this
    omega
  simp only [Config.posBound, Config.vCeiling] at hs hv ho
  obtain ⟨a, b, hab, hm⟩ := moveReport_read r.report
  obtain ⟨c, d, hcd, hl⟩ := lastResult_read r.lastResult
  obtain ⟨h0, h1, h2, h3, h4, h5, h6, h7⟩ := flagByte_bits r.surgeGranted r.stickLost r.report.isSome
    (isAbandon r.report) r.parts.isSome r.timeline.isSome r.lastResult.isSome
  rw [← StateReport.flags_eq] at h0 h1 h2 h3 h4 h5 h6 h7
  simp only [StateReport.bytes, hab, hcd, bytes32, bytes16, List.cons_append, List.nil_append, readState, h0, h1, h2, h3,
    h4, h5, h6, h7, Bool.false_eq_true, if_false, Role.ofCode_byte, NodeState.ofCode_byte, FaultCause.ofCode_byte, hm, hl,
    word16_bytes, word32_bytes, parts_read, timeline_read htl, byteOf_toNat (show r.owed < 256 by omega)]
  rw [toInt_ofInt32 (by omega) (by omega), toInt_ofInt32 (by omega) (by omega), toInt_ofInt32 (by omega) (by omega)]

theorem readPayload_payload {f : Frame} (h : f.within = true) : readPayload f.kind f.payload = some f := by
  cases f with
  | halt c => cases c <;> rfl
  | surge | join | go | descriptor => rfl
  | arm tag moveId slot targets splice => simp [readPayload, Frame.kind, Frame.payload, bytes16]
  | hold tag moveId | resume tag moveId | release tag moveId | cancel tag moveId =>
    simp [readPayload, Frame.kind, Frame.payload]
  | stick enable channels =>
    obtain ⟨-, h6⟩ := of_decide_eq_true h
    have hn := byteOf_toNat (show channels.length < 256 by omega)
    simp only [readPayload, Frame.kind, Frame.payload, List.cons_append, List.nil_append, boolOfByte_byteOfBool, hn]
    have hc := readChannels_bytes channels
    simp only [List.cons_append, List.nil_append] at hc
    rw [hc]
  | state r => simp [readPayload, Frame.kind, Frame.payload, readState_bytes h]
  | service tag target op => simp [readPayload, Frame.kind, Frame.payload]

/-! ## Frames -/

theorem Frame.kind_le (f : Frame) : f.kind ≤ 12 := by cases f <;> simp [Frame.kind]

theorem kindClass_le (k : Nat) : kindClass k ≤ 5 := by
  unfold kindClass
  split <;> decide

theorem channels_bytes_length (cs : List Channel) :
    (cs.flatMap fun c => [byteOf c.role.code] ++ bytes16 c.deflection).length = 3 * cs.length := by
  induction cs with
  | nil => rfl
  | cons c cs ih =>
    rw [List.flatMap_cons, List.length_append, ih]
    simp [bytes16]
    omega

/-- A payload's length fits its byte. -/
theorem Frame.payload_length_lt {f : Frame} (h : f.within = true) : f.payload.length < 256 := by
  cases f with
  | halt c => cases c <;> decide
  | surge | join | go => exact Nat.lt_of_sub_eq_succ rfl
  | arm => simp [Frame.payload, bytes16]
  | hold tag | resume tag | release tag | cancel tag => cases tag <;> simp [Frame.payload, cuePayload]
  | stick enable channels =>
    obtain ⟨-, h6⟩ := of_decide_eq_true h
    have := channels_bytes_length channels
    simp only [Frame.payload, List.length_append, List.length_cons, List.length_nil]
    omega
  | state r =>
    obtain ⟨a, b, hab, -⟩ := moveReport_read r.report
    obtain ⟨c, d, hcd, -⟩ := lastResult_read r.lastResult
    simp [Frame.payload, StateReport.bytes, bytes32, bytes16, hab, hcd]
  | service tag target op =>
    cases op with
    | park mode => cases mode <;> simp [Frame.payload, Operation.bytes]
    | query | capture | undo | editClear | commit | delete | unprotect | gotoStart | unpark | clear | restart =>
      simp [Frame.payload, Operation.bytes, bytes16]
  | descriptor page content =>
    obtain ⟨hl, -⟩ := Bool.and_eq_true_iff.mp h
    have hl := of_decide_eq_true hl
    have hp : pageLength page ≤ 49 := by
      unfold pageLength
      split <;> decide
    simp only [Frame.payload, List.length_append, List.length_cons, List.length_nil]
    omega

/-- The check over the body passes test 1 of receipt (R162). -/
theorem checkGood_bytes (src : Station) (f : Frame) : checkGood (f.bytes src) = true := by
  have hl : (f.bytes src).length = (f.body src).length + 2 := by simp [Frame.bytes, bytes16]
  have h3 : 3 ≤ (f.body src).length := by simp [Frame.body]
  unfold checkGood
  rw [hl, Nat.add_sub_cancel, Frame.bytes, List.take_left, List.drop_left]
  simp only [Bool.and_eq_true, decide_eq_true_eq, beq_self_eq_true, and_true]
  omega

theorem keyByte_read {cls : Nat} (h : cls ≤ 5) (src : Station) :
    (keyByte cls src).toNat / 16 = cls ∧ (keyByte cls src).toNat % 16 = src.val := by
  have := src.isLt
  rw [keyByte, byteOf_toNat (by omega)]
  omega

namespace Machine

/-- Settles O60: each test of receipt passes on the bytes of a frame within its encoding. -/
theorem sentFrameIsReceived : Obligations.SentFrameIsReceived := by
  unfold Obligations.SentFrameIsReceived
  intro src f h
  have hl : (f.bytes src).length = (f.body src).length + 2 := by simp [Frame.bytes, bytes16]
  have ht : (f.bytes src).take ((f.bytes src).length - 2) = f.body src := by
    rw [hl, Nat.add_sub_cancel, Frame.bytes, List.take_left]
  have hk : (byteOf f.kind).toNat = f.kind := byteOf_toNat (lt_of_le_of_lt f.kind_le (by decide))
  have hp : (byteOf f.payload.length).toNat = f.payload.length := byteOf_toNat (f.payload_length_lt h)
  obtain ⟨hc, hs⟩ := keyByte_read (kindClass_le f.kind) src
  rw [← Frame.cls] at hc hs
  unfold receiveFrame
  rw [checkGood_bytes, ht]
  simp only [Frame.body, Bool.not_true, Bool.false_eq_true, if_false, List.cons_append, List.nil_append, hk, hp, hc, hs]
  rw [if_pos ⟨f.kind_le, trivial, rfl⟩, stationOfByte_val, readPayload_payload h]
  simp only [h, if_true]

end Machine

end Sys2Proof
end

section
/-! Preset records in a region's bytes (R117, R182), both ways, and the slot check that reads them (R119). -/

namespace Sys2Proof

/-! ## Keyframes -/

theorem pos_read {x : Int} (h : inRange (-Config.fineBound) Config.fineBound x = true) :
    (BitVec.ofInt 32 x).toInt = x := by
  obtain ⟨h1, h2⟩ := of_inRange h
  simp only [Config.fineBound] at h1 h2
  exact toInt_ofInt32 (by omega) (by omega)

theorem count16_read {n : Nat} (h : n < 65536) : (BitVec.ofNat 16 n).toNat = n := by
  rw [BitVec.toNat_ofNat, Nat.mod_eq_of_lt h]

/-- A keyframe after the first has its motion, with a duration that its field holds. -/
theorem Keyframe.later_motion {k : Keyframe} (h : k.later = true) :
    k.placed = true ∧ ∃ m, k.motion = some m ∧ m.dur < 65536 := by
  obtain ⟨hp, hm⟩ := Bool.and_eq_true_iff.mp h
  refine ⟨hp, ?_⟩
  cases hk : k.motion with
  | none =>
    rw [hk] at hm
    cases hm
  | some m =>
    rw [hk] at hm
    have := of_decide_eq_true hm
    simp only [Config.segMax] at this
    exact ⟨m, rfl, by omega⟩

theorem readLaterKeys_bytes (rest : List Byte) {ks : List Keyframe} (h : ∀ k ∈ ks, k.later = true) :
    readLaterKeys ks.length (ks.flatMap Keyframe.bytes ++ rest) = some (ks, rest) := by
  induction ks with
  | nil => rfl
  | cons k ks ih =>
    obtain ⟨hk, hks⟩ := List.forall_mem_cons.mp h
    obtain ⟨hp, m, hm, hd⟩ := Keyframe.later_motion hk
    obtain ⟨pos, motion⟩ := k
    subst hm
    simp only [List.flatMap_cons, Keyframe.bytes, bytes32, bytes16, List.cons_append, List.nil_append, List.length_cons,
      readLaterKeys, easingOfByte_byte, ih hks, word32_bytes, word16_bytes, pos_read hp, count16_read hd]

theorem readKeys_bytes (rest : List Byte) {k : Keyframe} {ks : List Keyframe} (hp : k.placed = true)
    (hm : k.motion = none) (h : ∀ x ∈ ks, x.later = true) :
    readKeys (k :: ks).length ((k :: ks).flatMap Keyframe.bytes ++ rest) = some (k :: ks, rest) := by
  obtain ⟨pos, motion⟩ := k
  subst hm
  simp only [List.flatMap_cons, Keyframe.bytes, bytes32, List.cons_append, List.nil_append]
  refine (congrArg (Option.map _) (readLaterKeys_bytes rest h)).trans ?_
  simp only [Option.map_some, word32_bytes, pos_read hp]

/-- The bytes that keyframes after the first were read from. -/
theorem bytes_of_readLaterKeys {n : Nat} {bs tail : List Byte} {ks : List Keyframe}
    (h : readLaterKeys n bs = some (ks, tail)) : ks.length = n ∧ bs = ks.flatMap Keyframe.bytes ++ tail := by
  induction n generalizing bs ks with
  | zero =>
    cases h
    exact ⟨rfl, rfl⟩
  | succ n ih =>
    unfold readLaterKeys at h
    split at h
    · cases ‹_ = 0›
    · rename_i m p3 p2 p1 p0 d1 d0 e rest hn
      cases hn
      split at h
      · rename_i e' ks' tail' he hks
        cases h
        obtain ⟨hl, hb⟩ := ih hks
        refine ⟨by rw [List.length_cons, hl], ?_⟩
        simp only [List.flatMap_cons, Keyframe.bytes, BitVec.ofInt_toInt, BitVec.ofNat_toNat, BitVec.setWidth_eq,
          bytes32_word, bytes16_word, Easing.byte_of_read he, List.cons_append, List.nil_append, ← hb]
      · cases h
    · cases h

theorem bytes_of_readKeys {n : Nat} {bs tail : List Byte} {ks : List Keyframe}
    (h : readKeys n bs = some (ks, tail)) : ks.length = n ∧ bs = ks.flatMap Keyframe.bytes ++ tail := by
  unfold readKeys at h
  split at h
  · cases h
    exact ⟨rfl, rfl⟩
  · obtain ⟨⟨ks', tail'⟩, hr, he⟩ := Option.map_eq_some_iff.mp h
    cases he
    obtain ⟨hl, hb⟩ := bytes_of_readLaterKeys hr
    refine ⟨by rw [List.length_cons, hl], ?_⟩
    simp only [List.flatMap_cons, Keyframe.bytes, BitVec.ofInt_toInt, bytes32_word, List.cons_append, List.nil_append, ← hb]
    rfl
  · cases h

/-! ## Records -/

theorem flags_of_lt {b : Byte} (h : b.toNat < 4) :
    byteOf ((if b.getLsbD 0 then 1 else 0) + (if b.getLsbD 1 then 2 else 0)) = b := by
  revert b
  decide

/-- A well-formed record's count and times lie in their fields. -/
theorem Preset.wellFormed_fields {p : Preset} (h : p.wellFormed = true) :
    p.fIn < 65536 ∧ p.fOut < 65536 ∧ p.dwell < 65536 ∧ p.sTrim < 65536 := by
  obtain ⟨-, hf⟩ := Bool.and_eq_true_iff.mp h
  have := of_decide_eq_true hf
  simp only [Config.fadeMax] at this
  omega

/-- A well-formed record with four bytes behind it is read back with them. -/
theorem readRecord_bytes {p : Preset} (h : p.wellFormed = true) (k3 k2 k1 k0 : Byte) :
    readRecord (p.bytes ++ [k3, k2, k1, k0]) = some (p, [k3, k2, k1, k0]) := by
  obtain ⟨-, hlen, k, ks, hk, hp, hm, hl⟩ := Preset.wellFormed_keys h
  obtain ⟨h1, h2, h3, h4⟩ := Preset.wellFormed_fields h
  obtain ⟨hlt, h0, h1'⟩ := twoFlags p.autoRelease p.protect
  have hn : (byteOf p.keys.length).toNat = p.keys.length := byteOf_toNat (by omega)
  have hr := fun rest => readKeys_bytes rest hp hm hl
  rw [← hk] at hr
  simp only [Preset.bytes, List.append_assoc, List.cons_append, List.nil_append, readRecord, hn, hr, bytes16, hlt, if_true,
    h0, h1', word16_bytes, count16_read h1, count16_read h2, count16_read h3, count16_read h4]

theorem bytes_of_readRecord {bs check : List Byte} {p : Preset} (h : readRecord bs = some (p, check)) :
    bs = p.bytes ++ check ∧ check.length = 4 := by
  unfold readRecord at h
  split at h
  · cases h
  · rename_i count rest
    split at h
    · rename_i keys a1 a0 b1 b0 c1 c0 d1 d0 flags k3 k2 k1 k0 hk
      split at h
      · rename_i hf
        cases h
        obtain ⟨hl, hb⟩ := bytes_of_readKeys hk
        refine ⟨?_, rfl⟩
        simp only [Preset.bytes, hl, byteOf_of_toNat, BitVec.ofNat_toNat, BitVec.setWidth_eq, bytes16_word, flags_of_lt hf,
          hb, List.append_assoc, List.cons_append, List.nil_append]
      · cases h
    · cases h

theorem take_record {p : Preset} {check : List Byte} (h : check.length = 4) :
    (p.bytes ++ check).take ((p.bytes ++ check).length - 4) = p.bytes := by
  rw [List.length_append, h, Nat.add_sub_cancel, List.take_left]

theorem checkedRecord_checkedBytes {p : Preset} (h : p.wellFormed = true) : checkedRecord p.checkedBytes = some p := by
  have hr : readRecord p.checkedBytes = some (p, bytes32 (crc32 p.bytes)) := readRecord_bytes h ..
  unfold checkedRecord
  rw [hr]
  dsimp only
  rw [Preset.checkedBytes, take_record rfl, if_pos ⟨rfl, h⟩]

theorem checkedBytes_of_checkedRecord {bs : List Byte} {p : Preset} (h : checkedRecord bs = some p) :
    p.wellFormed = true ∧ bs = p.checkedBytes := by
  unfold checkedRecord at h
  split at h
  · rename_i q check hr
    split at h
    · rename_i hc
      cases h
      obtain ⟨hb, hl⟩ := bytes_of_readRecord hr
      obtain ⟨hcrc, hw⟩ := hc
      rw [hb, take_record hl] at hcrc
      exact ⟨hw, by rw [hb, Preset.checkedBytes, hcrc]⟩
    · cases h
  · cases h

namespace Machine

/-! ## The slot check -/

theorem Store.decideSlot_slots (st : Store) (k n : Fin 48) :
    (st.decideSlot k).slots[n] = if n = k then decidedSlot st.regions[k] else st.slots[n] := by
  by_cases h : n = k
  · subst h
    simp [Store.decideSlot]
  · have hne : k.val ≠ n.val := fun e => h (Fin.ext e.symm)
    simp [Store.decideSlot, h, Vector.getElem_set_ne _ _ hne]

/-- The slots of a list decided, each by its region, and nothing else of the store changed. -/
theorem Store.decideSlots (ks : List (Fin 48)) (st : Store) :
    (ks.foldl Store.decideSlot st).regions = st.regions ∧ (ks.foldl Store.decideSlot st).buffer = st.buffer ∧
      ∀ n : Fin 48, (ks.foldl Store.decideSlot st).slots[n] =
        if n ∈ ks then decidedSlot st.regions[n] else st.slots[n] := by
  induction ks generalizing st with
  | nil => exact ⟨rfl, rfl, fun n => by simp⟩
  | cons k ks ih =>
    obtain ⟨hr, hb, hs⟩ := ih (st.decideSlot k)
    refine ⟨hr, hb, fun n => ?_⟩
    rw [List.foldl_cons, hs n, Store.decideSlot_slots]
    by_cases hn : n ∈ ks
    · simp [hn, Store.decideSlot]
    · by_cases hk : n = k
      · subst hk
        simp [hn]
      · simp [hn, hk]

theorem mem_slotsFrom (k : Nat) (n : Fin 48) : n ∈ slotsFrom k ↔ k ≤ n.val := by
  simp [slotsFrom, List.mem_finRange]

theorem decidedSlot_complete (bs : List Byte) :
    decidedSlot ⟨.complete, bs⟩ = ((checkedRecord bs).map Slot.held).getD .invalid := by
  cases h : checkedRecord bs <;> simp [decidedSlot, h]

theorem decidedSlot_erased {bs : List Byte} (h : bs ≠ []) : decidedSlot ⟨.erased, bs⟩ = .invalid := by
  cases bs with
  | nil => exact absurd rfl h
  | cons b bs => rfl

/-- Settles O6: the slots from the check's on, and what a region is decided as. -/
theorem slotCheckEndDecidesTheRest : Obligations.SlotCheckEndDecidesTheRest := by
  unfold Obligations.SlotCheckEndDecidesTheRest
  refine ⟨fun s k hl hop hr => ?_, rfl, fun p hw => ?_, fun bs h => ?_, fun bs => rfl, fun bs => decidedSlot_erased,
    fun bs p h => ?_⟩
  · have hd : s.start.decided = false := by rw [StartUp.decided, hr]; rfl
    have hf : ({ s with store := s.store.checkEnded k } : State).finishStarting =
        { s with store := s.store.checkEnded k } :=
      if_neg fun hc => by simp [State.startingDone, hd] at hc
    obtain ⟨hreg, hbuf, hs⟩ := Store.decideSlots (slotsFrom k) s.store
    have he : exec .slotCheckEnd s = .next { s with store := s.store.checkEnded k } := by
      change whenAble s.live s s.slotStep = _
      rw [hl, whenAble_able, State.slotStep_of_checking hop, hf]
    refine ⟨_, he, rfl, fun n => (hs n).trans (by simp only [mem_slotsFrom]), ?_⟩
    simp only [Store.checkEnded, hreg, hbuf]
  · rw [decidedSlot_complete, checkedRecord_checkedBytes hw]
    rfl
  · rw [decidedSlot_complete]
    cases hc : checkedRecord bs with
    | none => rfl
    | some p =>
      obtain ⟨hw, hb⟩ := checkedBytes_of_checkedRecord hc
      exact absurd hb (h p hw)
  · rw [decidedSlot_complete] at h
    cases hc : checkedRecord bs with
    | none =>
      rw [hc] at h
      cases h
    | some q =>
      rw [hc] at h
      cases h
      exact checkedBytes_of_checkedRecord hc

end Machine

end Sys2Proof
end

section
/-! Halts, faults and the brake sequences (8.2 to 8.5), the reports of a hand-over (R151), and the statements about
them. -/

namespace Sys2Proof

/-- The states a halt or a stopping cause stops: those that move or may move (R141, R144). -/
def NodeState.moving (n : NodeState) : Prop := n = .active ∨ n = .holdPark ∨ n = .brakeRelease

theorem NodeState.not_moving {n : NodeState} (h1 : n ≠ .active) (h2 : n ≠ .holdPark) (h3 : n ≠ .brakeRelease) :
    ¬ n.moving := fun h => h.elim h1 (·.elim h2 h3)

namespace Machine

/-- An event that can come about takes place. -/
theorem whenAble_of {able : Bool} (h : able = true) (s t : State) : whenAble able s t = .next t := by rw [h]; rfl

/-! ## What halts and transitions leave in the lanes -/

section
variable {k : Lane} (hc : k ≠ .cue) (hs : k ≠ .surge)
include hc

theorem State.discard_lane (s : State) (p : Place) : (s.discard p).link.lane k = s.link.lane k := by
  unfold State.discard
  split
  · rfl
  · exact joinWithdrawn_lane _ _ hc

theorem State.haltContexts_lane (s : State) : s.haltContexts.link.lane k = s.link.lane k := by
  unfold State.haltContexts
  split
  · rfl
  · exact (State.discard_lane hc _ _).trans (State.discard_lane hc _ _)

include hs

omit hc in
theorem State.surgeAt_lane (s : State) (old new : NodeState) : (s.surgeAt old new).link.lane k = s.link.lane k := by
  unfold State.surgeAt
  split
  · exact Link.withdraw_lane_ne _ _ hs
  · split
    · rfl
    · split <;> rfl

theorem State.enter_lane (s : State) (n : NodeState) : (s.enter n).link.lane k = s.link.lane k := by
  refine (State.surgeAt_lane hs _ _ _).trans ?_
  split
  · exact State.haltContexts_lane hc s
  · rfl

theorem State.settleStop_lane (s : State) : s.settleStop.link.lane k = s.link.lane k := by
  unfold State.settleStop
  split
  · exact State.enter_lane hc hs _ _
  · rfl

theorem State.stopMotion_lane (s : State) : s.stopMotion.link.lane k = s.link.lane k := by
  unfold State.stopMotion
  split
  all_goals first | rfl | exact (State.settleStop_lane hc hs _).trans (State.enter_lane hc hs _ _)

theorem State.halt_lane (s : State) : s.halt.link.lane k = s.link.lane k :=
  (State.stopMotion_lane hc hs _).trans (State.haltContexts_lane hc s)

end

/-! ## Stopping -/

section
variable {s : State}

theorem State.stopMotion_moving (h : s.axis.nodeState.moving) : s.stopMotion = (s.enter .stopping).settleStop := by
  rcases h with h | h | h <;> simp only [State.stopMotion, h]

theorem State.stopMotion_nodeState_moving (h : s.axis.nodeState.moving) :
    s.stopMotion.axis.nodeState = if s.limiter.vc = 0 then .stopped else .stopping := by
  rw [State.stopMotion_moving h, State.settleStop_nodeState]
  simp [Axis.entered, limiterAt, NodeState.still]

theorem State.stopMotion_standing (h : ¬ s.axis.nodeState.moving) : s.stopMotion = s :=
  State.stopMotion_rest (fun e => h (.inl e)) (fun e => h (.inr (.inl e))) (fun e => h (.inr (.inr e)))

theorem State.settleStop_standing (h : s.axis.nodeState ≠ .stopping) : s.settleStop = s :=
  if_neg fun e => h e.1

theorem State.settleStop_S (s : State) : s.settleStop.limiter.S = s.limiter.S := by
  unfold State.settleStop
  split
  · exact State.enter_S (by decide)
  · rfl

theorem State.settleStop_vc (s : State) : s.settleStop.limiter.vc = s.limiter.vc := by
  unfold State.settleStop
  split
  case isTrue h => rw [State.enter_limiter, h.2]; rfl
  case isFalse => rfl

theorem State.stopMotion_S (s : State) : s.stopMotion.limiter.S = s.limiter.S := by
  by_cases h : s.axis.nodeState.moving
  · rw [State.stopMotion_moving h, State.settleStop_S, State.enter_S (by decide)]
  · rw [State.stopMotion_standing h]

theorem State.stopMotion_vc (s : State) : s.stopMotion.limiter.vc = s.limiter.vc := by
  by_cases h : s.axis.nodeState.moving
  · rw [State.stopMotion_moving h, State.settleStop_vc, State.enter_limiter]; rfl
  · rw [State.stopMotion_standing h]

theorem State.enter_moves_idle (h : s.moves.none? = true) (n : NodeState) : (s.enter n).moves = s.moves := by
  rw [State.enter_moves, State.haltContexts_idle h, ite_self]

theorem State.settleStop_moves_idle (h : s.moves.none? = true) : s.settleStop.moves = s.moves := by
  unfold State.settleStop
  split
  · exact State.enter_moves_idle h _
  · rfl

theorem State.stopMotion_moves_idle (h : s.moves.none? = true) : s.stopMotion.moves = s.moves := by
  by_cases hm : s.axis.nodeState.moving
  · rw [State.stopMotion_moving hm, State.settleStop_moves_idle (by rw [State.enter_moves_idle h]; exact h),
      State.enter_moves_idle h]
  · rw [State.stopMotion_standing hm]

/-! ## Halts -/

theorem State.halt_moves (s : State) : s.halt.moves = s.haltContexts.moves :=
  State.stopMotion_moves_idle s.haltContexts_none

/-- A halt stops the node from the state it stands in (R141). -/
theorem State.halt_stopMotion (s : State) :
    ∃ u : State, s.halt = u.stopMotion ∧ u.axis.nodeState = s.axis.nodeState ∧ u.limiter = s.limiter ∧ u.surge = s.surge :=
  ⟨{ s.haltContexts with axis := { s.haltContexts.axis with haltLatch := true } }, rfl,
    congrArg (·.nodeState) s.haltContexts_only.axis, s.haltContexts_only.limiter, s.haltContexts_only.surge⟩

theorem State.halt_nodeState_moving (h : s.axis.nodeState.moving) :
    s.halt.axis.nodeState = if s.limiter.vc = 0 then .stopped else .stopping := by
  obtain ⟨u, hu, hn, hl, -⟩ := s.halt_stopMotion
  rw [hu, State.stopMotion_nodeState_moving (hn ▸ h), hl]

theorem State.halt_standing (h : ¬ s.axis.nodeState.moving) :
    s.halt.axis.nodeState = s.axis.nodeState ∧ s.halt.limiter = s.limiter ∧ s.halt.surge = s.surge := by
  obtain ⟨u, hu, hn, hl, hs⟩ := s.halt_stopMotion
  rw [hu, State.stopMotion_standing (hn ▸ h)]
  exact ⟨hn, hl, hs⟩

theorem State.halt_S (s : State) : s.halt.limiter.S = s.limiter.S := by
  obtain ⟨u, hu, -, hl, -⟩ := s.halt_stopMotion
  rw [hu, State.stopMotion_S, hl]

end

/-- Settles O25: a HALT, from any station and in every state. -/
theorem haltFrameStopsTheNode : Obligations.HaltFrameStopsTheNode := by
  intro rx cause s hl
  have ho : s.heard.AxisOnly s.heard.halt := State.halt_only _
  refine ⟨s.heard.halt, State.arrive_taken (f := .halt cause) hl rfl rx fun _ t => t.halt, State.halt_haltLatch _, State.halt_cause _, ?_, ?_, ?_, ?_,
    ho.peers, ho.store, ho.blend, ho.drive, ho.start, ho.window, ho.echo, ho.owed, State.halt_S _⟩
  · rw [State.halt_moves, State.haltContexts_moves]; rfl
  · exact fun h => State.halt_nodeState_moving (s := s.heard) (h.elim .inl (.inr ∘ .inl))
  · intro h hv
    rw [State.halt_nodeState_moving (s := s.heard) (.inr (.inr h)), State.heard_limiter, if_pos hv]
  · exact fun h1 h2 h3 => State.halt_standing (s := s.heard) (NodeState.not_moving h1 h2 h3)

end Machine

end Sys2Proof
end

section
/-! Faults, the brake sequences, the reports of a hand-over, and the two lines that act: the statements about them. -/

namespace Sys2Proof.Machine

section
variable {s : State}

/-! ## The line sampling -/

/-- The lines as a sampling leaves them, before the changes they report. -/
def State.sampled (s : State) (levels : Lines Bool) : State :=
  { s with drive := { s.drive with lines := s.sampledLines levels } }

theorem State.lineReaction_estop {levels : Lines Bool} (h : (s.sampledLines levels).estop.active = true)
    (h0 : s.drive.lines.estop.active = false)
    (hd : (s.sampledLines levels).driveFault.active = true → s.drive.lines.driveFault.active = true) :
    s.lineReaction levels = (s.sampled levels).estopPressed := by
  have hn : ¬ ((s.sampledLines levels).driveFault.active = true ∧ (!s.drive.lines.driveFault.active) = true) :=
    fun e => by simp [hd e.1] at e
  unfold State.lineReaction
  rw [if_neg hn, if_pos ⟨h, by rw [h0]; rfl⟩]
  rfl

theorem State.lineReaction_driveFault {levels : Lines Bool} (h : (s.sampledLines levels).driveFault.active = true)
    (h0 : s.drive.lines.driveFault.active = false)
    (he : (s.sampledLines levels).estop.active = true → s.drive.lines.estop.active = true) :
    s.lineReaction levels = (s.sampled levels).faulting .driveFault := by
  have hn : ¬ ((s.sampledLines levels).estop.active = true ∧ (!s.drive.lines.estop.active) = true) :=
    fun e => by simp [he e.1] at e
  unfold State.lineReaction
  rw [if_pos ⟨h, by rw [h0]; rfl⟩, if_neg hn]
  rfl

theorem Link.haltLane_of_empty {l : Link} (h : l.load .halt = 0) (q : Queued) : (l.hand .halt q).haltLane = [q] := by
  have he : l.haltLane = [] := List.length_eq_zero_iff.mp (Nat.eq_zero_of_add_eq_zero_right h)
  rw [Link.hand_of_room (by rw [h]; decide)]
  exact congrArg (· ++ [q]) he

end

/-- Settles O9: the line sampling that makes ESTOP active is a halt, with its HALT frame handed first. -/
theorem estopActivationHaltsAndSendsHalt : Obligations.EstopActivationHaltsAndSendsHalt := by
  intro s levels ht h h0 hd
  let u := (s.sampled levels).hand .halt (plain (.halt .estopLine))
  have ho : u.AxisOnly u.halt := u.halt_only
  have hlane : u.halt.link.haltLane = (s.link.hand .halt (plain (.halt .estopLine))).haltLane :=
    State.halt_lane (k := .halt) (by decide) (by decide) u
  refine ⟨u.halt, ?_, u.halt_haltLatch, u.halt_cause, ho.drive, ?_, ?_, ?_, ?_, ?_, ?_, u.halt_S, ho.window,
    ho.echo.trans (Link.hand_echo _ _ _), ho.owed.trans (Link.hand_owed _ _ _), ho.peers, ho.blend, ho.store, ho.start⟩
  · exact (whenAble_of (by simp [ht, h, h0]) _ _).trans (congrArg _ (State.lineReaction_estop h h0 hd))
  · rw [State.halt_moves]; exact State.haltContexts_none _
  · exact fun he => hlane.trans (Link.haltLane_of_empty he _)
  · exact fun he => hlane.trans (congrArg Link.haltLane (Link.hand_of_full (k := .halt) he.ge _))
  · exact fun hn => State.halt_nodeState_moving (s := u) (hn.elim .inl (.inr ∘ .inl))
  · exact fun hn hv => (State.halt_nodeState_moving (s := u) (.inr (.inr hn))).trans (if_pos hv)
  · exact fun h1 h2 h3 => (State.halt_standing (s := u) (NodeState.not_moving h1 h2 h3)).1

/-! ## A faulting cause in a running node -/

/-- The states in which a faulting cause leads into NS_FAULTED (R145). -/
def State.running (s : State) : Prop :=
  s.axis.nodeState ≠ .starting ∧ s.axis.nodeState ≠ .configFault ∧ s.axis.nodeState ≠ .faulted

section
variable {s : State} (hr : s.running) (c : FaultCause)
include hr

theorem State.faulting_eq :
    s.faulting c = (s.setCause (causeAfterFaulting s.axis.cause c s.link.owed)).enter .faulted :=
  State.faulting_running c hr.1 hr.2.1 hr.2.2

theorem State.faulting_axis : (s.faulting c).axis =
    { s.axis with cause := causeAfterFaulting s.axis.cause c s.link.owed }.entered .faulted := by
  rw [State.faulting_eq hr, State.enter_axis]; rfl

theorem State.faulting_limiter : (s.faulting c).limiter = ⟨s.limiter.S, 0, 0⟩ := by
  rw [State.faulting_eq hr, State.enter_limiter]; rfl

theorem State.faulting_not_granted : (s.faulting c).surge.status ≠ .granted := by
  rw [State.faulting_eq hr, State.enter_surge, State.surgeAt_surge]
  split
  · simp
  · split
    · simp
    case isFalse h => exact fun e => h ⟨by decide, by decide, e⟩

theorem State.faulting_standing (ha : s.axis.nodeState ≠ .active) :
    (s.faulting c).moves = s.moves ∧ (s.faulting c).link = s.link := by
  rw [State.faulting_eq hr]
  let u := s.setCause (causeAfterFaulting s.axis.cause c s.link.owed)
  exact ⟨State.enter_moves_standing (s := u) ha _, State.enter_link (s := u) ha _⟩

theorem State.faulting_idle (ha : s.axis.nodeState = .active) : (s.faulting c).moves.none? = true := by
  rw [State.faulting_eq hr, State.enter_moves, if_pos ⟨ha, by decide⟩]
  exact State.haltContexts_none _

end

theorem causeAfterFaulting_free {cause : FaultCause} (h : cause = .none ∨ cause = .stationClash) (c : FaultCause)
    (owed : Nat) : causeAfterFaulting cause c owed = c := by
  rcases h with h | h <;> rw [h] <;> rfl

theorem causeAfterFaulting_stands {cause : FaultCause}
    (h : cause = .driveSilent ∨ cause = .following ∨ cause = .brakeTimeout) (c : FaultCause) (owed : Nat) :
    causeAfterFaulting cause c owed = cause := by
  rcases h with h | h | h <;> rw [h] <;> rfl

/-- Settles O10: the line sampling that makes DRIVE_FAULT active reports the faulting cause, which outranks no other. -/
theorem driveFaultActivationFaultsTheNode : Obligations.DriveFaultActivationFaultsTheNode := by
  intro s levels ht h h0 he h1 h2 h3
  have hr : (s.sampled levels).running := ⟨h1, h2, h3⟩
  have ho := (s.sampled levels).faulting_only .driveFault
  have hx := State.faulting_axis hr .driveFault
  refine ⟨(s.sampled levels).faulting .driveFault, ?_, ?_, ?_, ?_, ?_, ?_, ?_, ?_, State.faulting_limiter hr _,
    fun ha => State.faulting_idle hr _ ha, State.faulting_not_granted hr _, ?_, ?_, ?_,
    ho.store, ho.peers, ho.blend, ho.start⟩
  case refine_1 =>
    exact (whenAble_of (by simp [ht, h, h0]) _ _).trans (congrArg _ (State.lineReaction_driveFault h h0 he))
  all_goals rw [hx]
  case refine_9 => exact fun hc => causeAfterFaulting_free hc _ _
  case refine_10 => exact fun hc => causeAfterFaulting_stands hc _ _
  case refine_11 => intro hc; show causeAfterFaulting s.axis.cause _ _ = _; rw [hc]; rfl
  all_goals rfl

/-! ## The brake sequences -/

/-- NS_ACTIVE entered from another state: every block but the axis state machine stands. -/
theorem State.enter_active {s : State} (h : s.axis.nodeState ≠ .active) :
    s.enter .active = { s with axis := s.axis.entered .active } := by
  have hg : s.surgeAt s.axis.nodeState .active = s := by
    unfold State.surgeAt
    rw [if_neg (fun e => e.2.1 rfl), if_neg (fun e => e.2.1 rfl), if_neg (fun e => e.1 rfl)]
  unfold State.enter
  dsimp only
  rw [if_neg (fun e => h e.1), hg]
  rfl

/-- The wait for the brake feedback in either sequence, and in neither case from NS_ACTIVE or a state that cannot
fault. -/
theorem State.axisReaction_waits {s : State}
    (h : (s.axis.nodeState = .brakeRelease ∧ s.axis.releaseConfirmed = false ∧ s.drive.lines.brakeFb.active = false) ∨
      (s.axis.nodeState = .brakeEngage ∧ s.drive.lines.brakeFb.active = true)) :
    s.brakeWaits = true ∧ s.axisReaction = s.brakeWait ∧ s.running ∧ s.axis.nodeState ≠ .active := by
  rcases h with ⟨hn, hc, hb⟩ | ⟨hn, hb⟩
  · simp [State.brakeWaits, State.axisReaction, State.releaseStep, State.running, hn, hc, hb]
  · simp [State.brakeWaits, State.axisReaction, State.engageStep, State.running, hn, hb]

theorem State.brakeWait_timeout {s : State} (h : s.start.profile.brakeTimeout ≤ s.axis.brakeCount + 1) :
    s.brakeWait = s.faulting .brakeTimeout := if_pos h

/-- Settles O19: the two ends of the brake sequences. -/
theorem brakeTimeoutFaultsAndSettleEndsInActive : Obligations.BrakeTimeoutFaultsAndSettleEndsInActive := by
  intro s ht
  refine ⟨fun hw hcount hcause => ?_, fun hn hc hcount => ?_⟩
  · obtain ⟨hwait, hreact, hr, hne⟩ := State.axisReaction_waits hw
    have ho := s.faulting_only .brakeTimeout
    have hx := State.faulting_axis hr .brakeTimeout
    obtain ⟨hmoves, hlink⟩ := State.faulting_standing hr .brakeTimeout hne
    refine ⟨s.faulting .brakeTimeout, ?_, ?_, ?_, ?_, ?_, ?_, ?_, State.faulting_limiter hr _,
      hmoves, hlink, ho.store, ho.drive, ho.peers, ho.blend, ho.start⟩
    · refine (whenAble_of ?_ _ _).trans (congrArg _ (hreact.trans (State.brakeWait_timeout hcount.ge)))
      simp [ht, hwait, hcount.ge]
    · rw [hx]; rfl
    · rw [hx]; exact causeAfterFaulting_free (.inl hcause) _ _
    · rw [hx]; rfl
    · rw [hx]; rfl
    · rw [hx]; rfl
    · rw [hx]; rfl
  · refine (whenAble_of ?_ _ _).trans (congrArg _ ?_)
    · simp [ht, hn, hc, hcount]
    · have hr : s.axisReaction = s.enter .active := by
        simp [State.axisReaction, State.releaseStep, hn, hc, hcount]
      rw [hr, State.enter_active (by rw [hn]; decide)]
      rfl

/-! ## The reports of a hand-over -/

/-- The owed count after the placement of a STATE frame. -/
def Link.placedOwed (l : Link) : Nat := if l.stateLane.isEmpty then l.owed else owedMore l.owed

/-- The setpoint operation with its three reports read off the state before it (R151, R153, R154, R169). -/
theorem State.setpointOperation_reports (s : State) : s.setpointOperation =
    (let v := s.operate.handedOver s.axis.nodeState
     let s1 := if becameThree s.drive.silent (judgedSilent s.drive.exchange s.drive.silent) then
       v.faulting .driveSilent else v
     let s2 := if becameThree s.drive.following
       (judgedFollowing s.start.profile.feLimit s.drive.exchange s.drive.following) then s1.faulting .following else s1
     if starvedBetween s.link.owed s.link.placedOwed then s2.starved else s2).settleStop := by
  obtain ⟨-, hstart, -, -, -, -, hdrive, -, howed, hlane, -⟩ := s.operate_frame
  have hplaced : (s.operate.handedOver s.axis.nodeState).link.owed = s.link.placedOwed := by
    unfold Link.placedOwed
    rw [← howed, ← hlane]
    rfl
  have hs : (s.operate.handedOver s.axis.nodeState).drive.silent = judgedSilent s.drive.exchange s.drive.silent := by
    rw [← hdrive]; rfl
  have hf : (s.operate.handedOver s.axis.nodeState).drive.following =
      judgedFollowing s.start.profile.feLimit s.drive.exchange s.drive.following := by
    rw [← hdrive, ← hstart]; rfl
  unfold State.setpointOperation State.handOverAll State.reportsTaken
  rw [hplaced, hs, hf, hdrive, howed]

theorem becameThree_false {before after : Nat} (h : before = 2 → after ≠ 3) : becameThree before after = false :=
  decide_eq_false fun e => h e.1 e.2

theorem starvedBetween_false {l : Link} (h : l.owed < 8) : starvedBetween l.owed l.placedOwed = false := by
  refine decide_eq_false fun e => ?_
  have h9 : l.placedOwed = 9 := e.2
  have : owedMore l.owed ≤ l.owed + 1 := Nat.min_le_left _ _
  unfold Link.placedOwed at h9
  split at h9 <;> omega

section
variable {s : State} (ho : s.link.owed < 8)
include ho

theorem State.setpointOperation_silent
    (hs : becameThree s.drive.silent (judgedSilent s.drive.exchange s.drive.silent) = true)
    (hf : becameThree s.drive.following
      (judgedFollowing s.start.profile.feLimit s.drive.exchange s.drive.following) = false) :
    s.setpointOperation = ((s.operate.handedOver s.axis.nodeState).faulting .driveSilent).settleStop := by
  rw [State.setpointOperation_reports, hs, hf, starvedBetween_false ho]
  rfl

theorem State.setpointOperation_following
    (hs : becameThree s.drive.silent (judgedSilent s.drive.exchange s.drive.silent) = false)
    (hf : becameThree s.drive.following
      (judgedFollowing s.start.profile.feLimit s.drive.exchange s.drive.following) = true) :
    s.setpointOperation = ((s.operate.handedOver s.axis.nodeState).faulting .following).settleStop := by
  rw [State.setpointOperation_reports, hs, hf, starvedBetween_false ho]
  rfl

theorem State.setpointOperation_quiet
    (hs : becameThree s.drive.silent (judgedSilent s.drive.exchange s.drive.silent) = false)
    (hf : becameThree s.drive.following
      (judgedFollowing s.start.profile.feLimit s.drive.exchange s.drive.following) = false) :
    s.setpointOperation = (s.operate.handedOver s.axis.nodeState).settleStop := by
  rw [State.setpointOperation_reports, hs, hf, starvedBetween_false ho]
  rfl

end

/-- A fault reported at the hand-over of a running node: where it leaves the axis and the limiter. -/
theorem State.handOver_faulted {s : State} (hr : s.running) {c : FaultCause} (hcause : s.axis.cause = .none)
    (h : s.setpointOperation = ((s.operate.handedOver s.axis.nodeState).faulting c).settleStop) :
    s.setpointOperation.axis.nodeState = .faulted ∧ s.setpointOperation.axis.cause = c ∧
    s.setpointOperation.axis.driveEnable = false ∧ s.setpointOperation.axis.brakeReleased = false ∧
    s.setpointOperation.limiter.vc = 0 ∧ s.setpointOperation.axis.haltLatch = s.axis.haltLatch := by
  obtain ⟨-, -, -, -, -, haxis, -⟩ := s.operate_frame
  have hv : (s.operate.handedOver s.axis.nodeState).axis = s.axis := haxis
  have hr' : (s.operate.handedOver s.axis.nodeState).running := by rw [State.running, hv]; exact hr
  have hx := State.faulting_axis hr' c
  rw [h, State.settleStop_standing (by rw [hx]; simp [Axis.entered]), State.faulting_limiter hr', hx]
  refine ⟨rfl, ?_, rfl, rfl, rfl, (congrArg Axis.haltLatch hv :)⟩
  show causeAfterFaulting _ _ _ = c
  rw [hv]
  exact causeAfterFaulting_free (.inl hcause) _ _

/-- The counts of the drive after the setpoint operation (R153, R154). -/
theorem State.setpointOperation_counts (s : State) :
    s.setpointOperation.drive.silent = judgedSilent s.drive.exchange s.drive.silent ∧
    s.setpointOperation.drive.following =
      judgedFollowing s.start.profile.feLimit s.drive.exchange s.drive.following := by
  obtain ⟨-, hstart, -, -, -, -, hdrive, -⟩ := s.operate_frame
  rw [State.setpointOperation, (State.handOverAll_only _ _).drive, ← hdrive, ← hstart]
  exact ⟨rfl, rfl⟩

section
variable {e : Exchange} (he : e.enable = true)
include he

theorem judgedSilent_missed (hout : ∀ p, e.outcome ≠ .answered p) (n : Nat) :
    judgedSilent (some e) n = min (n + 1) 3 := by
  simp only [judgedSilent, he]
  cases h : e.outcome with
  | answered p => exact absurd h (hout p)
  | awaiting => rfl
  | notReady => rfl

theorem judgedSilent_answered {p : Int} (hout : e.outcome = .answered p) (n : Nat) : judgedSilent (some e) n = 0 := by
  simp [judgedSilent, he, hout]

/-- An exchange that no answer has made ANSWERED says nothing of the following error (R154). -/
theorem judgedFollowing_missed (hout : ∀ p, e.outcome ≠ .answered p) (limit : Int) (n : Nat) :
    judgedFollowing limit (some e) n = 0 ∨ judgedFollowing limit (some e) n = n := by
  simp only [judgedFollowing, he]
  cases e.tracking with
  | true => exact .inl rfl
  | false =>
    cases h : e.outcome with
    | answered p => exact absurd h (hout p)
    | awaiting => exact .inr rfl
    | notReady => exact .inr rfl

theorem judgedFollowing_over {p limit : Int} (hout : e.outcome = .answered p) (ht : e.tracking = false)
    (hl : 256 * limit < |e.setpoint - 256 * p|) (n : Nat) : judgedFollowing limit (some e) n = min (n + 1) 3 := by
  have hov : overLimit limit e.setpoint p = true := decide_eq_true (by rw [mag_eq_abs]; exact hl)
  simp [judgedFollowing, he, ht, hout, hov]

end

/-- Settles O20: the third miss and the third following error, each reported alone at its hand-over. -/
theorem thirdDriveMissFaultsTheNode : Obligations.ThirdDriveMissFaultsTheNode := by
  intro s e ht hex hen h1 h2 h3 hcause howed
  obtain ⟨-, hstart, hpeers, hstore, -, -, hecho⟩ := s.setpointOperation_frame
  obtain ⟨hsilent, hfollowing⟩ := s.setpointOperation_counts
  obtain ⟨-, -, -, -, -, haxis, -⟩ := s.operate_frame
  have henable : (s.operate.newExchange s.axis.nodeState).enable = s.axis.driveEnable := congrArg Axis.driveEnable haxis
  rw [hex] at hsilent hfollowing
  refine ⟨fun hout h => ?_, fun p hout htr hl h => ?_⟩
  · have hj : judgedSilent (some e) s.drive.silent = 3 := by rw [judgedSilent_missed hen hout, h]; rfl
    have hb : becameThree s.drive.silent (judgedSilent s.drive.exchange s.drive.silent) = true := by rw [hex, hj, h]; rfl
    have hf := becameThree_false (before := s.drive.following)
      (after := judgedFollowing s.start.profile.feLimit s.drive.exchange s.drive.following) (by
        rw [hex]
        rcases judgedFollowing_missed hen hout s.start.profile.feLimit s.drive.following with g | g <;> omega)
    obtain ⟨hn, hc, hd, hbr, hv, hh⟩ := State.handOver_faulted ⟨h1, h2, h3⟩ hcause (State.setpointOperation_silent howed hb hf)
    exact ⟨s.setpointOperation, _, whenAble_of (by simp [ht, hb]) _ _, hn, hc, hd, hbr, hv, hsilent.trans hj,
      s.setpointOperation_exchange, henable, hstore, hpeers, hstart, hecho, hh⟩
  · have hj : judgedFollowing s.start.profile.feLimit (some e) s.drive.following = 3 := by
      rw [judgedFollowing_over hen hout htr hl, h]; rfl
    have hb : becameThree s.drive.following
        (judgedFollowing s.start.profile.feLimit s.drive.exchange s.drive.following) = true := by rw [hex, hj, h]; rfl
    have hs := becameThree_false (before := s.drive.silent)
      (after := judgedSilent s.drive.exchange s.drive.silent) (by
        rw [hex, judgedSilent_answered hen hout]; omega)
    obtain ⟨hn, hc, hd, hbr, hv, hh⟩ := State.handOver_faulted ⟨h1, h2, h3⟩ hcause (State.setpointOperation_following howed hs hb)
    exact ⟨s.setpointOperation, _, whenAble_of (by simp [ht, hb]) _ _, hn, hc, hd, hbr, hv, hfollowing.trans hj,
      s.setpointOperation_exchange, henable, hstore, hpeers, hstart, hecho, hh⟩

/-- A stop made at a hand-over has nothing left to settle. -/
theorem State.settleStop_stopMotion (s : State) (h : s.axis.nodeState ≠ .stopping) :
    s.stopMotion.settleStop = s.stopMotion := by
  refine if_neg fun e => ?_
  by_cases hm : s.axis.nodeState.moving
  · have hn := State.stopMotion_nodeState_moving hm
    rw [← State.stopMotion_vc, if_pos e.2] at hn
    exact absurd (hn.symm.trans e.1) (by decide)
  · rw [State.stopMotion_standing hm] at e
    exact h e.1

/-- Settles O21: the ninth owed frame, whose report alone is taken at its hand-over. -/
theorem ninthOwedFrameStarvesTheLink : Obligations.NinthOwedFrameStarvesTheLink := by
  intro s ht howed hlane hs hf
  obtain ⟨-, hstart, hpeers, hstore, -, -, hecho⟩ := s.setpointOperation_frame
  obtain ⟨-, -, -, -, -, haxis, -, -, hcount, hst, -⟩ := s.operate_frame
  have hempty : s.link.stateLane.isEmpty = false := List.isEmpty_eq_false_iff.mpr hlane
  have hplaced : s.link.placedOwed = 9 := by simp [Link.placedOwed, hempty, howed, owedMore]
  let v := s.operate.handedOver s.axis.nodeState
  have hv : v.axis = s.axis := haxis
  have he : s.setpointOperation = v.starved.settleStop := by
    rw [State.setpointOperation_reports, hs, hf, hplaced, howed]
    rfl
  have ho : v.AxisOnly v.starved.settleStop := (State.starved_only v).trans (State.settleStop_only _)
  have hvowed : v.link.owed = 9 := by
    show (s.operate.link.placeState s.operate.stateReport).owed = 9
    rw [Link.placeState_owed, hst, hcount, hempty, howed]
    rfl
  have hvlane : v.starved.settleStop.link.stateLane = v.link.stateLane :=
    (State.settleStop_lane (k := .state) (by decide) (by decide) _).trans
      (State.stopMotion_lane (k := .state) (by decide) (by decide) _)
  refine ⟨s.setpointOperation, ?_, ?_, ?_, ?_, fun hn => ?_, fun hn => ?_, hstore, hpeers, hstart, hecho, ?_⟩
  · exact whenAble_of (by simp [ht, hempty, howed, starvedBetween, owedMore]) _ _
  · rw [he]; exact ho.owed.trans hvowed
  · rw [he, hvlane]; exact Link.placeState_stateLane _ _
  · rw [he, State.settleStop_cause, State.starved_cause]
  · have hm : (v.setCause .linkStarved).axis.nodeState.moving := by
      rw [State.setCause_axis, hv]; exact hn
    have hne : (v.setCause .linkStarved).axis.nodeState ≠ .stopping := by
      rcases hm with h | h | h <;> rw [h] <;> decide
    rw [he, State.starved, State.settleStop_stopMotion _ hne, State.stopMotion_nodeState_moving hm, State.stopMotion_vc]
  · have hb : (v.setCause .linkStarved).axis.nodeState = .braked := by rw [State.setCause_axis, hv]; exact hn
    have hnm : ¬ (v.setCause .linkStarved).axis.nodeState.moving :=
      NodeState.not_moving (by rw [hb]; decide) (by rw [hb]; decide) (by rw [hb]; decide)
    rw [he, State.starved, State.stopMotion_standing hnm, State.settleStop_standing (by rw [hb]; decide), hb]
  · rw [he, State.settleStop_haltLatch, State.starved, State.stopMotion_haltLatch, State.setCause_axis, hv]

end Sys2Proof.Machine
end

section
/-! The events of the line (R160, R161, R165 to R168), and the statements about them. -/

namespace Sys2Proof.Machine

/-! ## An idle of the line -/

theorem keyByte_toNat (k : Lane) (n : Station) : (keyByte k.cls n).toNat = 16 * k.cls + n.val := by
  have hk : k.cls ≤ 5 := by cases k <;> decide
  have hn := n.isLt
  exact byteOf_toNat (by omega)

theorem winsLine_iff (k : Lane) (n : Station) (others : List Byte) :
    winsLine (keyByte k.cls n) others = true ↔ ∀ o ∈ others, 16 * k.cls + n.val ≤ o.toNat := by
  simp only [winsLine, List.all_eq_true, decide_eq_true_eq, keyByte_toNat]

/-- The lane offered from is the lowest that holds a frame (R165). -/
theorem Link.offeredLane_of_lowest {l : Link} {k : Lane} (hk : l.lane k ≠ [])
    (hlow : ∀ j : Lane, j.cls < k.cls → l.lane j = []) : l.offeredLane = some k := by
  have hk' : (l.lane k).isEmpty = false := List.isEmpty_eq_false_iff.mpr hk
  have hj : ∀ j : Lane, j.cls < k.cls → (l.lane j).isEmpty = true := fun j h => by rw [hlow j h]; rfl
  cases k with
  | halt => simp [Link.offeredLane, Lane.all, hk']
  | surge => simp [Link.offeredLane, Lane.all, hk', hj .halt (by decide)]
  | cue => simp [Link.offeredLane, Lane.all, hk', hj .halt (by decide), hj .surge (by decide)]
  | state =>
    simp [Link.offeredLane, Lane.all, hk', hj .halt (by decide), hj .surge (by decide), hj .cue (by decide)]
  | service =>
    simp [Link.offeredLane, Lane.all, hk', hj .halt (by decide), hj .surge (by decide), hj .cue (by decide),
      hj .state (by decide)]

theorem Link.idle_offering {l : Link} {k : Lane} (hl : l.onLine = none) (ho : l.offeredLane = some k) (n : Station)
    (others : List Byte) :
    l.idle n others = if winsLine (keyByte k.cls n) others = true then l.takeFrom k else l := by
  simp only [Link.idle, hl, ho]

theorem Link.takeFrom_cons {l : Link} {k : Lane} {q : Queued} {rest : List Queued} (h : l.lane k = q :: rest) :
    l.takeFrom k = { l.setLane k rest with onLine := some ⟨k, q, false⟩ } := by
  simp only [Link.takeFrom, h]

/-- Settles O22: the lowest lane offers, and its key decides. -/
theorem lineTakesTheLowestOfferedFrame : Obligations.LineTakesTheLowestOfferedFrame := by
  intro s k q rest others hl hfree hk hlow
  have ho := Link.offeredLane_of_lowest (by rw [hk]; exact List.cons_ne_nil _ _) hlow
  have hi := Link.idle_offering hfree ho s.start.station others
  have hx : ∀ l, s.link.idle s.start.station others = l → exec (.lineIdle others) s = .next { s with link := l } :=
    fun l e => (whenAble_of hl _ _).trans (by rw [e])
  refine ⟨fun h => hx _ ?_, fun ⟨o, hm, ho⟩ => hx _ ?_⟩
  · rw [hi, if_pos ((winsLine_iff k _ _).mpr h), Link.takeFrom_cons hk]
  · rw [hi, if_neg fun e => absurd ((winsLine_iff k _ _).mp e o hm) (not_le.mpr ho)]

/-! ## The two ends of the node's own frame -/

/-- Settles O23: the departure, by the lane the frame left. -/
theorem departureIsReportedToItsBlock : Obligations.DepartureIsReportedToItsBlock := by
  intro s o hl ho
  have hx : ∀ t, s.departs = t → exec .frameDeparture s = .next t := fun t e => (whenAble_of hl _ _).trans (by rw [e])
  have hd : s.departs = ({ s with link := s.link.gone o } : State).departureReported o := by
    simp only [State.departs, ho]; rfl
  refine ⟨fun h hn => hx _ ?_, fun h hs hw => hx _ ?_, fun c h hc ha hp hq => hx _ ?_, fun h => hx _ ?_⟩
  · have hcf : ¬ (s.link.owed = Config.owedLimit ∧ s.axis.nodeState = .configFault ∧ s.axis.cause = .linkStarved) :=
      fun e => hn e.2.1
    rw [hd, State.departureReported, h]
    exact if_neg hcf
  · rw [hd, State.departureReported, h]
    exact if_pos ⟨hs, by rw [hw]; rfl⟩
  · have hj : c.joinSent (some c.serial) = { c with ownJoin := some .sent } := if_pos ⟨rfl, hq⟩
    simp only [hd, State.departureReported, h, ha, hp, hc, Option.map_some, Option.map_none, hj]
    rfl
  · rcases h with h | h <;> · rw [hd, State.departureReported, h]; rfl

/-- A frame that ends unacknowledged in a lane other than STATE (R166, R167). -/
theorem State.returns_of_ne_state {s : State} {o : OnLine} (ho : s.link.onLine = some o) (h : o.lane ≠ .state) :
    s.returns = { s with link :=
      if o.withdrawn then { s.link with onLine := none }
      else { s.link.setLane o.lane (o.item :: s.link.lane o.lane) with onLine := none } } := by
  simp only [State.returns, ho]
  cases hk : o.lane <;> first | exact absurd hk h | (cases o.withdrawn <;> rfl)

theorem State.returns_of_state {s : State} {o : OnLine} (ho : s.link.onLine = some o) (h : o.lane = .state) :
    s.returns = s.stateReturns o.item := by
  simp only [State.returns, ho, h]

/-! ## Withdrawals -/

theorem onLine_standing {x : Option OnLine} {k : Lane} {sel : Queued → Bool}
    (h : ∀ o, x = some o → o.lane ≠ k ∨ sel o.item = false) :
    x.map (fun o => if o.lane = k ∧ sel o.item = true then { o with withdrawn := true } else o) = x := by
  cases x with
  | none => rfl
  | some o =>
    refine congrArg some (if_neg fun e => ?_)
    rcases h o rfl with g | g
    · exact g e.1
    · simp [g] at e

theorem filter_unselected {q : List Queued} {sel : Queued → Bool} (h : ∀ x ∈ q, sel x = false) :
    q.filter (fun x => !sel x) = q := List.filter_eq_self.mpr fun x hx => by rw [h x hx]; rfl

/-- A withdrawal that finds its frame nowhere on the line takes it from its lane (R167). -/
theorem Link.withdraw_waiting {l : Link} {k : Lane} {sel : Queued → Bool}
    (h : ∀ o, l.onLine = some o → o.lane ≠ k ∨ sel o.item = false) :
    l.withdraw k sel = l.setLane k ((l.lane k).filter fun q => !sel q) := by
  show ({ l.setLane k _ with onLine := _ } : Link) = _
  rw [onLine_standing h]
  cases k <;> rfl

/-- And one whose frame is on the line waits for its end. -/
theorem Link.withdraw_onLine {l : Link} {k : Lane} {sel : Queued → Bool} {o : OnLine} (ho : l.onLine = some o)
    (hk : o.lane = k) (hs : sel o.item = true) :
    l.withdraw k sel =
      { l.setLane k ((l.lane k).filter fun q => !sel q) with onLine := some { o with withdrawn := true } } := by
  simp [Link.withdraw, ho, hk, hs]

section
variable {l : Link} {n : Nat} {x : Queued}

theorem joinSel_true (h : x.ctx = some n) : (x.ctx == some n) = true := beq_iff_eq.mpr h
theorem joinSel_false (h : x.ctx ≠ some n) : (x.ctx == some n) = false := beq_eq_false_iff_ne.mpr h

end

/-- Settles O24: the frame goes back, is discarded or counted, and a withdrawal by where its frame is. -/
theorem unacknowledgedFrameGoesBack : Obligations.UnacknowledgedFrameGoesBack := by
  refine ⟨fun s o hl ho => ?_, fun l n => ?_, fun l => ?_⟩
  · have hx : ∀ t, s.returns = t → exec .frameUnacknowledged s = .next t :=
      fun t e => (whenAble_of hl _ _).trans (by rw [e])
    refine ⟨fun h hw => hx _ ?_, fun h hw => hx _ ?_, fun h he => hx _ ?_, fun h he hlt => hx _ ?_⟩
    · rw [State.returns_of_ne_state ho h, hw]; rfl
    · rw [State.returns_of_ne_state ho h, hw]; rfl
    · rw [State.returns_of_state ho h, State.stateReturns, he]; rfl
    · have hempty : s.link.stateLane.isEmpty = false := List.isEmpty_eq_false_iff.mpr he
      have hmore : owedMore s.link.owed = s.link.owed + 1 := by simp only [owedMore, Config.owedLimit]; omega
      have hst : starvedBetween s.link.owed (s.link.owed + 1) = false :=
        decide_eq_false (by simp only [Config.owedLimit]; omega)
      rw [State.returns_of_state ho h, State.stateReturns, hempty]
      simp only [hmore, hst]
      rfl
  · refine ⟨fun before q after hq hc hothers hon => ?_, fun o ho hk hc hothers => ?_, fun hon hothers => ?_⟩
    · have hsel : l.cueLane.filter (fun x => !(x.ctx == some n)) = before ++ after := by
        rw [hq, List.filter_append, List.filter_cons_of_neg (by simp [hc]), ← List.filter_append]
        exact filter_unselected fun x hx => joinSel_false (hothers x hx)
      rw [Link.withdrawJoin, Link.withdraw_waiting fun o ho => (hon o ho).imp_right joinSel_false]
      exact congrArg (fun q => ({ l with cueLane := q } : Link)) hsel
    · rw [Link.withdrawJoin, Link.withdraw_onLine ho hk (joinSel_true hc)]
      have hsel : (l.lane .cue).filter (fun x => !(x.ctx == some n)) = l.lane .cue :=
        filter_unselected fun x hx => joinSel_false (hothers x hx)
      rw [hsel, Link.setLane_self]
    · rw [Link.withdrawJoin, Link.withdraw_waiting fun o ho => (hon o ho).imp_right joinSel_false]
      have hsel : (l.lane .cue).filter (fun x => !(x.ctx == some n)) = l.lane .cue :=
        filter_unselected fun x hx => joinSel_false (hothers x hx)
      rw [hsel, Link.setLane_self]
  · have hnone : (l.lane .surge).filter (fun _ => !true) = [] := by simp
    refine ⟨fun hon => ?_, fun o ho hk => ?_⟩
    · rw [Link.withdrawSurge, Link.withdraw_waiting fun o ho => .inl (hon o ho), hnone]; rfl
    · rw [Link.withdrawSurge, Link.withdraw_onLine ho hk rfl, hnone]; rfl

end Sys2Proof.Machine
end

section
/-! The surge unit (4.2, 4.4) and the peer table (3.1, 3.3) at a period expiry, and the statements about them. -/

namespace Sys2Proof.Machine

/-! ## The surge unit's reaction -/

theorem agedWindow_eq (w : List Claim) :
    agedWindow w = (w.filter (fun c => decide (2 ≤ c.life))).map (fun c => ⟨c.src, c.life - 1⟩) := by
  have hkeep : (fun c : Claim => c.life != 0) ∘ (fun c : Claim => { c with life := c.life - 1 }) =
      fun c => decide (2 ≤ c.life) := by
    funext c
    have hiff : (c.life - 1 ≠ 0) ↔ 2 ≤ c.life := by omega
    exact Bool.eq_iff_iff.mpr (by simpa using hiff)
  rw [agedWindow, List.filter_map, hkeep]

section
variable {g : Surge}

theorem Surge.statusStep_standing (h : g.status = .none ∨ g.status = .queued) : g.statusStep = g := by
  unfold Surge.statusStep
  rcases h with h | h <;> rw [h]

theorem Surge.statusStep_sent (h : g.status = .sent) : g.statusStep = { g with status := .none } := by
  unfold Surge.statusStep
  rw [h]

theorem Surge.statusStep_granted (h : g.status = .granted) : g.statusStep =
    if g.countdown ≤ 1 then { g with countdown := 0, status := .none } else { g with countdown := g.countdown - 1 } := by
  unfold Surge.statusStep
  rw [h]

end

/-! ## A claim asked for -/

theorem requestedIncrease_eq (v w : Int) :
    requestedIncrease v w = if (0 < v ∧ w < 0) ∨ (v < 0 ∧ 0 < w) then |v| else |v| - |w| := by
  simp only [requestedIncrease, opposite, decide_eq_true_eq, mag_eq_abs]

section
variable {s : State} {v w : Int}

theorem State.claimAsked_taken (hn : s.axis.nodeState = .active) (hi : s.start.profile.aLow < requestedIncrease v w)
    (hs : s.surge.status = .none) (hw : s.surge.window.length < 4) (hl : s.link.load .surge = 0) :
    s.claimAsked v w = { s with
      link := { s.link with surgeLane := [plain .surge] }, surge := { s.surge with status := .queued } } := by
  have hroom : s.link.room .surge = true := decide_eq_true (by rw [hl]; decide)
  have hempty : s.link.surgeLane = [] := List.length_eq_zero_iff.mp (Nat.eq_zero_of_add_eq_zero_right hl)
  have hhand : s.link.hand .surge (plain .surge) = { s.link with surgeLane := [plain .surge] } := by
    rw [Link.hand_of_room (by rw [hl]; decide)]
    exact congrArg (fun q => ({ s.link with surgeLane := q ++ [plain .surge] } : Link)) hempty
  rw [State.claimAsked, if_pos ⟨hn, hi⟩, State.claimTaken, if_pos ⟨hs, hw, hroom⟩, State.hand, hhand]

theorem State.claimAsked_refused (h : (s.axis.nodeState = .active ∧
      (requestedIncrease v w ≤ s.start.profile.aLow ∨ s.surge.status ≠ .none ∨ 4 ≤ s.surge.window.length)) ∨
      s.axis.nodeState = .holdPark) : s.claimAsked v w = s := by
  unfold State.claimAsked State.claimTaken
  rcases h with ⟨-, hi | hs | hw⟩ | hn
  · rw [if_neg fun e => absurd e.2 (not_lt.mpr hi)]
  · rw [if_neg (c := s.surge.status = .none ∧ _) fun e => hs e.1, ite_self]
  · rw [if_neg (c := s.surge.status = .none ∧ _) fun e => absurd e.2.1 (not_lt.mpr hw), ite_self]
  · rw [if_neg fun e => by simp [hn] at e]

end

/-- The limiter chain's claim is its only effect on the surge unit and the lanes (R34). -/
theorem State.operate_claim {s : State} (h : s.axis.nodeState = .active ∨ s.axis.nodeState = .holdPark) :
    s.operate.surge = (s.claimAsked (s.target s.requested) s.limiter.vc).surge ∧
    s.operate.link = (s.claimAsked (s.target s.requested) s.limiter.vc).link := by
  rw [State.operate_of_blending h]
  exact ⟨rfl, rfl⟩

/-- Settles O16: the surge unit's reaction by its status, and the claim the setpoint operation asks for. -/
theorem surgeUnitAtAnExpiry : Obligations.SurgeUnitAtAnExpiry := by
  refine ⟨fun s ht => ?_, fun s => ?_⟩
  · dsimp only
    rw [← agedWindow_eq]
    let g : Surge := { s.surge with window := agedWindow s.surge.window }
    have hr : s.surgeReaction = { s with surge := g.statusStep } := rfl
    have hentry (h : ∃ c ∈ s.surge.window, c.life = 1) : exec .surgeEntryExpiry s = .next s.surgeReaction := by
      obtain ⟨c, hc, h1⟩ := h
      have hany : s.surge.window.any (fun c => decide (c.life ≤ 1)) = true :=
        List.any_eq_true.mpr ⟨c, hc, decide_eq_true h1.le⟩
      exact whenAble_of (by rw [ht, hany]; rfl) _ _
    refine ⟨fun h hs => ?_, fun h hs => ?_, fun hs hc => ?_, fun hs hc => ?_⟩
    · rw [hentry h, hr, Surge.statusStep_standing (g := g) hs]
    · rw [hentry h, hr, Surge.statusStep_sent (g := g) hs]
    · refine (whenAble_of (by simp [ht, Surge.granted, hs, hc]) _ _).trans ?_
      rw [hr, Surge.statusStep_granted (g := g) hs, if_pos hc.le]
    · rw [hr, Surge.statusStep_granted (g := g) hs, if_neg (not_le.mpr hc)]
  · dsimp only
    rw [← requestedIncrease_eq]
    refine ⟨fun hn hi hs hw hl => ?_, fun h => ?_⟩
    · obtain ⟨h1, h2⟩ := State.operate_claim (.inl hn)
      rw [h1, h2, State.claimAsked_taken hn hi hs hw hl]
      exact ⟨rfl, rfl⟩
    · obtain ⟨h1, h2⟩ := State.operate_claim (h.imp (·.1) id)
      rw [h1, h2, State.claimAsked_refused h]
      exact ⟨rfl, rfl⟩

end Sys2Proof.Machine
end

section
/-! The aging of the peer table (R47, R54) and the stale notices it gives to the move engine (R83, R104): what one notice
does to the contexts that stand, what a whole reaction then does, and the statements about them. -/

namespace Sys2Proof.Machine

/-! ## One stale notice -/

section
variable {s : State} {n : Station}

/-- A notice about a station that no moving or posted context has among its participants. -/
theorem State.staleNotice_unconcerned
    (ha : ∀ a ∈ s.moves.active, a.parts.has n = true → a.phase ≠ .running ∧ a.phase ≠ .resuming ∧ a.phase ≠ .posted)
    (hp : ∀ p ∈ s.moves.pending, p.parts.has n = true → p.phase ≠ .posted) : s.staleNotice n = s := by
  have h1 : s.staleFired n = s := by
    unfold State.staleFired
    cases h : s.moves.active with
    | none => rfl
    | some a => exact if_neg fun e => e.2.2.elim (ha a h e.2.1).1 (ha a h e.2.1).2.1
  have h2 : s.stalePosted .active n = s := by
    unfold State.stalePosted
    cases h : s.moves.active with
    | none => simp only [Moves.at, h]
    | some a => simp only [Moves.at, h]; exact if_neg fun e => (ha a h e.2).2.2 e.1
  have h3 : s.stalePosted .pending n = s := by
    unfold State.stalePosted
    cases h : s.moves.pending with
    | none => simp only [Moves.at, h]
    | some p => simp only [Moves.at, h]; exact if_neg fun e => hp p h e.2 e.1
  rw [State.staleNotice, h1, h2, h3]

/-- A HOLD handed to a CUE lane with room. -/
theorem Link.hand_cue {l : Link} (h : l.load .cue < 4) (f : Frame) :
    l.hand .cue (plain f) = { l with cueLane := l.cueLane ++ [⟨f, none⟩] } := Link.hand_of_room h _

variable {c : Context} (ha : s.moves.active = some c) (hp : s.moves.pending = none) (hn : c.parts.has n = true)
include ha hp hn

/-- A notice about a participant of a fired JOINT move that runs or resumes (R104). -/
theorem State.staleNotice_fired (hk : c.kind = .joint) (hph : c.phase = .running ∨ c.phase = .resuming) :
    s.staleNotice n = (s.withActive (some { c with phase := .holding, deferred := false })).handHold c.moveId := by
  let t := (s.withActive (some { c with phase := .holding, deferred := false })).handHold c.moveId
  have h1 : s.staleFired n = t := by
    unfold State.staleFired
    rw [ha]
    exact if_pos ⟨hk, hn, hph⟩
  have hrest : t.staleNotice n = t :=
    State.staleNotice_unconcerned (by rintro a ⟨⟩ -; exact ⟨nofun, nofun, nofun⟩) (by
      intro p h; rw [show t.moves.pending = none from hp] at h; cases h)
  have h0 : t.staleFired n = t := by
    unfold State.staleFired
    exact if_neg fun e => e.2.2.elim nofun nofun
  rw [State.staleNotice, h0] at hrest
  rw [State.staleNotice, h1]
  exact hrest

/-- A notice about a participant of the posted ACTIVE context (R83). -/
theorem State.staleNotice_posted (hph : c.phase = .posted) :
    s.staleNotice n = (s.withActive (some c.rearm)).handHold c.moveId := by
  let t := (s.withActive (some c.rearm)).handHold c.moveId
  have h1 : s.staleFired n = s := by
    unfold State.staleFired
    rw [ha]
    exact if_neg fun e => by rw [hph] at e; exact e.2.2.elim nofun nofun
  have h2 : s.stalePosted .active n = t := by
    simp only [State.stalePosted, Moves.at, ha]
    rw [if_pos ⟨hph, hn⟩]
    rfl
  have h3 : t.stalePosted .pending n = t := by
    unfold State.stalePosted
    simp only [Moves.at, show t.moves.pending = none from hp]
  rw [State.staleNotice, h1, h2, h3]

end

/-- A notice about a participant of a posted PENDING context beside a held one (R83). -/
theorem State.staleNotice_pending {s : State} {n : Station} {a c : Context} (ha : s.moves.active = some a)
    (hp : s.moves.pending = some c) (hah : a.phase = .holding ∨ a.phase = .suspended) (hph : c.phase = .posted)
    (hn : c.parts.has n = true) : s.staleNotice n = s.putContext .pending (some c.rearm) := by
  have h1 : s.staleFired n = s := by
    unfold State.staleFired
    rw [ha]
    refine if_neg fun e => ?_
    rcases hah with h | h <;> (rw [h] at e; exact e.2.2.elim nofun nofun)
  have h2 : s.stalePosted .active n = s := by
    simp only [State.stalePosted, Moves.at, ha]
    refine if_neg fun e => ?_
    rcases hah with h | h <;> (rw [h] at e; exact nomatch e.1)
  have h3 : s.stalePosted .pending n = (s.putContext .pending (some c.rearm)).lapseIfStranded := by
    simp only [State.stalePosted, Moves.at, hp]
    exact if_pos ⟨hph, hn⟩
  have h4 : (s.putContext .pending (some c.rearm)).lapseIfStranded = s.putContext .pending (some c.rearm) := by
    unfold State.lapseIfStranded
    simp only [State.putContext_moves, Moves.put, ha]
    refine if_neg fun e => ?_
    rcases hah with h | h <;> (rw [h] at e; exact nomatch e.1)
  rw [State.staleNotice, h1, h2, h3, h4]

/-! ## A whole reaction -/

theorem State.agePeer_stale {s : State} {n : Station} {e : PeerEntry} (he : s.entry n = some e) (h8 : e.age = 8) :
    s.agePeer n = (s.writeEntry n { e with age := older e.age }).staleNotice n := by
  unfold State.agePeer
  rw [he]
  exact if_pos (by rw [h8]; decide)

theorem State.agePeers_keep {P : State → Prop} (hP : ∀ {t : State} k, P t → P (t.agePeer k)) (ns : List Station)
    {s : State} (h : P s) : P (ns.foldl State.agePeer s) := by
  induction ns generalizing s with
  | nil => exact h
  | cons k ns ih => exact ih (hP k h)

/-- The contexts and lanes after a peer reaction in which station `n` goes STALE: the notice about `n` takes `m0` and
`l0` into `m1` and `l1`, every other notice leaves them there or takes them the same way, and none takes them further. -/
theorem State.peerReaction_turned {s : State} {n : Station} {e : PeerEntry} {m1 : Moves} {l1 : Link}
    (he : s.entry n = some e) (h8 : e.age = 8)
    (before : ∀ (t : State) k, t.moves = s.moves → t.link = s.link →
      ((t.staleNotice k).moves = s.moves ∧ (t.staleNotice k).link = s.link) ∨
      ((t.staleNotice k).moves = m1 ∧ (t.staleNotice k).link = l1))
    (turn : ∀ t : State, t.moves = s.moves → t.link = s.link →
      (t.staleNotice n).moves = m1 ∧ (t.staleNotice n).link = l1)
    (behind : ∀ (t : State) k, t.moves = m1 → t.link = l1 →
      (t.staleNotice k).moves = m1 ∧ (t.staleNotice k).link = l1) :
    s.peerReaction.moves = m1 ∧ s.peerReaction.link = l1 := by
  let A (t : State) : Prop := t.moves = s.moves ∧ t.link = s.link
  let B (t : State) : Prop := t.moves = m1 ∧ t.link = l1
  have hB {t : State} (k : Station) (h : B t) : B (t.agePeer k) :=
    State.agePeer_keeps (P := B) (fun _ _ h => h) (fun k h => behind _ k h.1 h.2) k h
  have hAB {t : State} (k : Station) (h : A t ∨ B t) : A (t.agePeer k) ∨ B (t.agePeer k) :=
    State.agePeer_keeps (P := fun t => A t ∨ B t) (fun _ _ h => h)
      (fun k h => h.elim (fun h => before _ k h.1 h.2) (fun h => .inr (behind _ k h.1 h.2))) k h
  obtain ⟨pre, post, hsplit⟩ := List.append_of_mem (List.mem_finRange n)
  have hnodup : (pre ++ n :: post).Nodup := hsplit ▸ List.nodup_finRange 16
  have hnot : n ∉ pre := fun h => (List.disjoint_of_nodup_append hnodup) h List.mem_cons_self
  let u := pre.foldl State.agePeer s
  have hu : A u ∨ B u := State.agePeers_keep (P := fun t => A t ∨ B t) hAB pre (.inl ⟨rfl, rfl⟩)
  have hentry : u.entry n = some e := by
    rw [State.agePeers_entry s pre hnodup.of_append_left, if_neg hnot, he]
  have hturn : B (u.agePeer n) := by
    rcases hu with h | h
    · rw [State.agePeer_stale hentry h8]; exact turn _ h.1 h.2
    · exact hB n h
  have hall : B (allStations.foldl State.agePeer s) := by
    rw [show allStations = pre ++ n :: post from hsplit, List.foldl_append, List.foldl_cons]
    exact State.agePeers_keep hB post hturn
  rw [State.peerReaction, State.ageStick_moves, State.ageStick_link]
  exact hall

/-- Settles O18: the three contexts a lost participant returns or holds. -/
theorem lostParticipantHoldsTheMove : Obligations.LostParticipantHoldsTheMove := by
  have hends {s : State} {n : Station} {e : PeerEntry} (ht : s.timerRuns = true) (he : s.entry n = some e)
      (h8 : e.age = 8) : exec .peerStale s = .next s.peerReaction := by
    have hany : s.entryEnds = true :=
      List.any_eq_true.mpr ⟨n, List.mem_finRange n, by rw [he]; simp [h8]⟩
    exact whenAble_of (by rw [ht, hany]; rfl) _ _
  refine ⟨fun s c n e ht ha hp hn he h8 hroom => ?_, fun s a c n e ht ha hp hah hph hn he h8 => ?_⟩
  · have hcue : ∀ t : State, t.link = s.link →
        t.link.hand .cue (plain (.hold none c.moveId)) =
          { s.link with cueLane := s.link.cueLane ++ [⟨.hold none c.moveId, none⟩] } :=
      fun t hl => by rw [hl]; exact Link.hand_cue hroom _
    have key (d : Context) (hd : d.phase ≠ .running ∧ d.phase ≠ .resuming ∧ d.phase ≠ .posted)
        (hturn : ∀ (t : State) k, t.moves = s.moves → c.parts.has k = true →
          t.staleNotice k = (t.withActive (some d)).handHold c.moveId) :
        ∃ t, exec .peerStale s = .next t ∧ t.moves = { s.moves with active := some d } ∧
          t.link = { s.link with cueLane := s.link.cueLane ++ [⟨.hold none c.moveId, none⟩] } ∧
          t.axis = s.axis ∧ t.limiter = s.limiter ∧ t.blend = s.blend ∧ t.surge = s.surge ∧ t.store = s.store ∧
          t.drive = s.drive ∧ t.start = s.start := by
      have turned (t : State) (k : Station) (hm : t.moves = s.moves) (hl : t.link = s.link)
          (hk : c.parts.has k = true) : (t.staleNotice k).moves = { s.moves with active := some d } ∧
          (t.staleNotice k).link = { s.link with cueLane := s.link.cueLane ++ [⟨.hold none c.moveId, none⟩] } := by
        rw [hturn t k hm hk]
        exact ⟨by rw [← hm]; rfl, hcue t hl⟩
      obtain ⟨hmoves, hlink⟩ := State.peerReaction_turned he h8
        (fun t k hm hl => by
          cases hk : c.parts.has k with
          | true => exact .inr (turned t k hm hl hk)
          | false =>
            rw [State.staleNotice_unconcerned (by simp [hm, ha, hk]) (by simp [hm, hp])]
            exact .inl ⟨hm, hl⟩)
        (fun t hm hl => turned t n hm hl hn)
        (fun t k hm hl => by
          rw [State.staleNotice_unconcerned (by simp [hm, hd]) (by simp [hm, hp])]
          exact ⟨hm, hl⟩)
      have ho := s.peerReaction_only
      exact ⟨_, hends ht he h8, hmoves, hlink, ho.axis, ho.limiter, ho.blend, ho.surge, ho.store, ho.drive, ho.start⟩
    refine ⟨fun hk hph => key _ ⟨nofun, nofun, nofun⟩ fun t k hm hh => ?_,
      fun hph => key _ ⟨nofun, nofun, nofun⟩ fun t k hm hh => ?_⟩
    · exact State.staleNotice_fired (hm ▸ ha) (hm ▸ hp) hh hk hph
    · exact State.staleNotice_posted (hm ▸ ha) (hm ▸ hp) hh hph
  · have haside (k : Station) : ∀ x ∈ some a, x.parts.has k = true →
        x.phase ≠ .running ∧ x.phase ≠ .resuming ∧ x.phase ≠ .posted := by
      rintro x ⟨⟩ -
      rcases hah with h | h <;> rw [h] <;> exact ⟨nofun, nofun, nofun⟩
    have turned (t : State) (k : Station) (hm : t.moves = s.moves) (hl : t.link = s.link)
        (hk : c.parts.has k = true) :
        (t.staleNotice k).moves = { s.moves with pending := some c.rearm } ∧ (t.staleNotice k).link = s.link := by
      rw [State.staleNotice_pending (hm ▸ ha) (hm ▸ hp) hah hph hk]
      exact ⟨by rw [← hm]; rfl, hl⟩
    obtain ⟨hmoves, hlink⟩ := State.peerReaction_turned he h8
      (fun t k hm hl => by
        cases hk : c.parts.has k with
        | true => exact .inr (turned t k hm hl hk)
        | false =>
          rw [State.staleNotice_unconcerned (by rw [hm, ha]; exact haside k) (by simp [hm, hp, hk])]
          exact .inl ⟨hm, hl⟩)
      (fun t hm hl => turned t n hm hl hn)
      (fun t k hm hl => by
        rw [State.staleNotice_unconcerned (by rw [hm]; simpa only [ha] using haside k) (by simp [hm, Context.rearm])]
        exact ⟨hm, hl⟩)
    exact ⟨_, hends ht he h8, hlink, hmoves⟩

/-- With no context in the node a peer reaction leaves the move engine and the lanes. -/
theorem State.peerReaction_idle_frame {s : State} (h : s.moves.none? = true) :
    s.peerReaction.moves = s.moves ∧ s.peerReaction.link = s.link :=
  State.peerReaction_keeps (P := fun t => t.moves = s.moves ∧ t.link = s.link) (fun _ _ g => g)
    (fun {t} n g => by rw [State.staleNotice_idle (by rw [g.1]; exact h)]; exact g) (fun g => g) ⟨rfl, rfl⟩

/-- Settles O17: the aging, in whichever of its two rows it is taken. -/
theorem peerAndStickAgesGoStale : Obligations.PeerAndStickAgesGoStale := by
  intro s c ht hc
  have hx : exec c s = .next s.peerReaction := by
    rcases hc with ⟨rfl, n, e, he, h8⟩ | ⟨rfl, r, hr, h8⟩
    · have hany : s.entryEnds = true :=
        List.any_eq_true.mpr ⟨n, List.mem_finRange n, by rw [he]; simp [h8]⟩
      exact whenAble_of (by rw [ht, hany]; rfl) _ _
    · exact whenAble_of (by rw [ht, hr]; simp [h8]) _ _
  have ho := s.peerReaction_only
  exact ⟨_, hx, s.peerReaction_entry, s.peerReaction_stick, ho.limiter, ho.blend, ho.surge, ho.store, ho.axis,
    ho.drive, ho.start, State.peerReaction_idle_frame⟩

end Sys2Proof.Machine
end

section
/-! The cues at a lone context, JOIN and CANCEL (R77, R80, R82, R87, R108), and the statements about them. -/

namespace Sys2Proof.Machine

/-! ## A cue's answer over the state that heard it -/

/-- A cue taken and answered: the contexts and lanes it leaves, the echo, and no loopback awaited. -/
def State.cueDone (s : State) (m : Moves) (l : Link) (tag : Option Byte) (rc : ResultCode) : State :=
  { s with moves := m, link := { l with departed := none, echo := (tag.map (fun x => (x, rc))).or s.link.echo } }

theorem State.answerCue_done {s : State} {m : Moves} {l : Link} (hd : l.departed = none) (he : l.echo = s.link.echo)
    (tag : Option Byte) (rc : ResultCode) :
    ({ s with moves := m, link := l } : State).answerCue tag rc = s.cueDone m l tag rc := by
  have hl : ({ l with departed := none, echo := s.link.echo } : Link) = l := by rw [← hd, ← he]
  cases tag with
  | none => exact congrArg (fun l' => ({ s with moves := m, link := l' } : State)) hl.symm
  | some t => exact congrArg (fun l' => ({ s with moves := m, link := l' } : State).answer t rc) hl.symm

/-- A taken-back JOIN and an awaited loopback do not meet. -/
theorem joinTakenBack_undeparted (l : Link) (c : Context) :
    joinTakenBack { l with departed := none } c = { joinTakenBack l c with departed := none } := by
  unfold joinTakenBack
  split <;> rfl

theorem joinWithdrawn_undeparted (l : Link) (c : Context) :
    joinWithdrawn { l with departed := none } c = { joinWithdrawn l c with departed := none } := by
  unfold joinWithdrawn
  split
  · exact joinTakenBack_undeparted l c
  · rfl

theorem State.cueDone_undeparted (s : State) (m : Moves) (l : Link) (tag : Option Byte) (rc : ResultCode) :
    s.cueDone m { l with departed := none } tag rc = s.cueDone m l tag rc := rfl

/-- A cue that leaves contexts `m` and takes back the waiting JOIN of a context `c` that it ends. -/
theorem State.answerCue_joinWithdrawn (s : State) (m : Moves) (c : Context) (tag : Option Byte) (rc : ResultCode) :
    ({ s.heard with moves := m, link := joinWithdrawn s.heard.link c } : State).answerCue tag rc =
      s.cueDone m (joinWithdrawn s.link c) tag rc := by
  refine (State.answerCue_done (s := s) (l := joinWithdrawn s.heard.link c) ?_ ?_ tag rc).trans ?_
  · rw [joinWithdrawn_departed]; rfl
  · rw [joinWithdrawn_echo]; rfl
  · rw [State.heard_link, joinWithdrawn_undeparted, State.cueDone_undeparted]

theorem State.answerCue_moves (s : State) (m : Moves) (tag : Option Byte) (rc : ResultCode) :
    ({ s.heard with moves := m } : State).answerCue tag rc = s.cueDone m s.link tag rc :=
  State.answerCue_done (s := s) (l := s.heard.link) rfl rfl tag rc

/-! ## JOIN -/

theorem Moves.find?_active {m : Moves} {c : Context} (h : m.active = some c) : m.find? c.moveId = some .active := by
  simp [Moves.find?, h]

theorem Moves.find?_pending {m : Moves} {a c : Context} (ha : m.active = some a) (hne : a.moveId ≠ c.moveId)
    (hp : m.pending = some c) : m.find? c.moveId = some .pending := by
  simp [Moves.find?, ha, hp, hne]

theorem Context.joined_stranger {c : Context} {src : Station} (h : c.parts.has src = false) :
    c.joined src false = { c with parts := c.parts ||| (1#16 <<< src.val), gatherCd := 25 } := by
  unfold Context.joined
  rw [h]
  rfl

theorem Context.joined_member {c : Context} {src : Station} (h : c.parts.has src = true) : c.joined src false = c := by
  unfold Context.joined
  rw [h]
  rfl

theorem Context.joined_own (c : Context) (src : Station) :
    c.joined src true = { c.joined src false with ownJoin := some .heard } := rfl

/-- Settles O29: a JOIN by its source, and the node's own. -/
theorem joinEntersTheGatheringSet : Obligations.JoinEntersTheGatheringSet := by
  intro rx s c hl ha hg
  have hx : exec (.join rx c.moveId) s =
      .next (s.heard.withActive (some (c.joined rx.src (s.isLoopback rx (.join c.moveId))))) := by
    refine (State.arrive_taken (f := .join c.moveId) hl rfl rx fun own t => t.joinAt rx.src own c.moveId).trans ?_
    have hf : s.moves.find? c.moveId = some .active := Moves.find?_active ha
    simp only [State.joinAt, State.heard_moves, hf, Moves.at, ha, hg, if_true, State.putContext_active]
  refine ⟨fun ho hs => ?_, fun ho hs => ?_, fun ho hs => ?_⟩
  · rw [hx, ho, Context.joined_stranger hs]; rfl
  · rw [hx, ho, Context.joined_member hs, State.withActive_self (s := s.heard) ha]
  · rw [hx, ho, Context.joined_own, Context.joined_stranger hs]; rfl

/-! ## GO, HOLD, RESUME and RELEASE at a lone context -/

section
variable {s : State} (hl : s.live = true) (rx : Rx)
include hl

theorem exec_go (tag moveId lead : Byte) :
    exec (.go rx tag moveId lead) s = .next (s.heard.cueAt moveId (s.heard.goAt tag lead.toNat)) :=
  State.arrive_taken (f := .go tag moveId lead) hl rfl rx fun _ t => t.cueAt moveId (t.goAt tag lead.toNat)

theorem exec_release (tag : Option Byte) (moveId : Byte) :
    exec (.release rx tag moveId) s = .next (s.heard.cueAt moveId (s.heard.releaseAt tag)) :=
  State.arrive_taken (f := .release tag moveId) hl rfl rx fun _ t => t.cueAt moveId (t.releaseAt tag)

variable {c : Context} (ha : s.moves.active = some c) (hm : c.moveId ≠ 0)
include ha hm

theorem exec_go_active (tag lead : Byte) :
    exec (.go rx tag c.moveId lead) s = .next (s.heard.goAt tag lead.toNat .active c) := by
  rw [exec_go hl, State.cueAt_active (s := s.heard) ha hm]

theorem exec_release_active (tag : Option Byte) :
    exec (.release rx tag c.moveId) s = .next (s.heard.releaseAt tag .active c) := by
  rw [exec_release hl, State.cueAt_active (s := s.heard) ha hm]

end

section
variable {s : State} {c : Context}

theorem State.earlyCue_lone (ha : s.moves.active = some c) (hp : s.moves.pending = none) (hg : c.phase = .gather)
    (tag : Option Byte) : s.heard.earlyCue .active tag =
      s.cueDone { s.moves with active := none, lastAbandon := some .earlyCue }
        (if c.ownJoin = some .queued then s.link.withdrawJoin c.serial else s.link) tag .refusedState := by
  have hab : s.heard.abandon .active .earlyCue = { s.heard with
      moves := { s.moves with active := none, lastAbandon := some .earlyCue }
      link := joinWithdrawn s.heard.link c } :=
    State.abandonActive_unfired (s := s.heard) ha hp (by rw [hg]; rfl) _
  rw [State.earlyCue, hab, State.answerCue_joinWithdrawn, joinWithdrawn_gather _ hg]
  rfl

theorem State.goAt_of_waiting (h : c.phase = .armed ∨ c.phase = .posted) (tag : Byte) (lead : Nat) (p : Place) :
    s.goAt tag lead p c = if s.allFresh c.parts then
      ((s.putContext p (some (c.post lead))).lapseIfStranded).answer tag .ok else s.answer tag .peerLost := by
  unfold State.goAt
  rcases h with h | h <;> rw [h]

theorem State.goAt_of_fired (h : c.phase.fired = true) (tag : Byte) (lead : Nat) (p : Place) :
    s.goAt tag lead p c = s.answer tag .refusedState := by
  unfold State.goAt
  cases hp : c.phase <;> first | rfl | (rw [hp] at h; exact nomatch h)

theorem State.resumeAt_of_waiting (h : c.phase = .armed ∨ c.phase = .posted) (tag : Option Byte) (p : Place) :
    s.resumeAt tag p c = s.answerCue tag .refusedState := by
  unfold State.resumeAt
  rcases h with h | h <;> rw [h]

theorem State.releaseAt_of_releasing (h : c.phase = .releasing) (tag : Option Byte) (p : Place) :
    s.releaseAt tag p c = s.answerCue tag .ok := by
  unfold State.releaseAt
  rw [h]

theorem State.releaseAt_of_gathered (h : c.phase ≠ .gather) (hr : c.phase ≠ .releasing) (tag : Option Byte) (p : Place) :
    s.releaseAt tag p c = (s.putContext p (some { c with releaseAtEnd := true })).answerCue tag .ok := by
  unfold State.releaseAt
  cases hp : c.phase <;> first | rfl | exact absurd hp h | exact absurd hp hr

end

/-- Settles O30: the cues at a lone context by its phase. -/
theorem goPostsAnArmedContext : Obligations.GoPostsAnArmedContext := by
  intro rx tag lead s c hl ha hp hm
  have hgo := exec_go_active hl rx ha hm tag lead
  refine ⟨fun hw => ⟨fun hfresh => ?_, fun ⟨n, hn, hlost⟩ => ?_⟩, fun hf => ?_,
    fun cueTag => ⟨fun h => ?_, fun h => ?_, fun h => ?_, fun h i hi => ?_⟩⟩
  · have hall : s.heard.allFresh c.parts = true := (State.allFresh_iff _ _).mpr hfresh
    rw [hgo, State.goAt_of_waiting hw, if_pos hall, State.lapseIfStranded_alone (by exact hp)]
    rfl
  · rw [hgo, State.goAt_of_waiting hw, if_neg (by rw [State.allFresh_lost (s := s.heard) hn hlost]; decide)]
    rfl
  · rw [hgo, State.goAt_of_fired hf]
    rfl
  · rw [exec_hold_active hl rx cueTag ha hm, State.holdAt, h]
    exact congrArg _ (State.answerCue_moves s s.moves cueTag .ok)
  · rw [exec_hold_active hl rx cueTag ha hm, State.holdAt, h]
    refine congrArg _ ?_
    rw [State.lapseIfStranded_alone (by exact hp)]
    exact State.answerCue_moves s _ cueTag .ok
  · rw [exec_resume_active hl rx cueTag ha hm, State.resumeAt_of_waiting h]
    exact congrArg _ (State.answerCue_moves s s.moves cueTag .refusedState)
  · have hearly := State.earlyCue_lone ha hp h cueTag
    rcases hi with ⟨rfl, rfl⟩ | rfl | rfl | rfl
    · rw [hgo, State.goAt, h]; exact congrArg _ hearly
    · rw [exec_hold_active hl rx cueTag ha hm, State.holdAt, h]; exact congrArg _ hearly
    · rw [exec_resume_active hl rx cueTag ha hm, State.resumeAt, h]; exact congrArg _ hearly
    · rw [exec_release_active hl rx ha hm, State.releaseAt, h]; exact congrArg _ hearly

/-- Settles O33: a RELEASE past the gather. -/
theorem releaseSetsReleaseAtEnd : Obligations.ReleaseSetsReleaseAtEnd := by
  intro rx tag s c hl ha hm hg
  rw [exec_release_active hl rx ha hm]
  by_cases hr : c.phase = .releasing
  · rw [State.releaseAt_of_releasing hr, if_pos hr]
    refine congrArg _ ((State.answerCue_moves s s.moves tag .ok).trans ?_)
    rw [State.cueDone, ← ha]
  · rw [State.releaseAt_of_gathered hg hr, if_neg hr]
    exact congrArg _ (State.answerCue_moves s _ tag .ok)

/-! ## CANCEL -/

section
variable {s : State} {c : Context} (a : AbandonReason)

theorem State.abandonActive_releasing (ha : s.moves.active = some c) (h : c.phase = .releasing) :
    s.abandonActive a = s := by
  simp only [State.abandonActive, ha, h, if_true]

theorem State.abandonActive_fired (ha : s.moves.active = some c) (hf : c.phase.fired = true) (h : c.phase ≠ .releasing) :
    s.abandonActive a = ((s.setAbandon a).putContext .active (some c.release)).abandonPending a := by
  simp only [State.abandonActive, ha, h, if_false, hf, if_true]

theorem State.abandonPending_held {p : Context} (hp : s.moves.pending = some p) :
    s.abandonPending a = { s with
      moves := { s.moves with pending := none, lastAbandon := some a }, link := joinWithdrawn s.link p } := by
  rw [State.abandonPending, hp]
  exact State.discard_held (s := s.setAbandon a) (p := .pending) hp

theorem State.abandonActive_fired_alone (ha : s.moves.active = some c) (hp : s.moves.pending = none)
    (hf : c.phase.fired = true) (h : c.phase ≠ .releasing) :
    s.abandonActive a = { s with moves := { s.moves with active := some c.release, lastAbandon := some a } } := by
  rw [State.abandonActive_fired a ha hf h, State.abandonPending_empty (by exact hp)]
  rfl

theorem exec_cancel (hl : s.live = true) (rx : Rx) (tag : Option Byte) {id : Byte} {p : Place}
    (hf : s.moves.find? id = some p) :
    exec (.cancel rx tag id) s = .next ((s.heard.abandon p .cancelled).answerCue tag .ok) := by
  refine (State.arrive_taken (f := .cancel tag id) hl rfl rx fun _ t => t.cancelAt tag id).trans ?_
  have hf' : s.heard.moves.find? id = some p := hf
  simp only [State.cancelAt, hf']

end

/-- Settles O34: a CANCEL by the place and the phase of its context. -/
theorem cancelAbandonsTheMove : Obligations.CancelAbandonsTheMove := by
  intro rx tag s c hl
  have hact (ha : s.moves.active = some c) :
      exec (.cancel rx tag c.moveId) s = .next ((s.heard.abandonActive .cancelled).answerCue tag .ok) :=
    exec_cancel hl rx tag (Moves.find?_active ha)
  refine ⟨fun ha hp hf => ?_, fun ha hp hf hr => ?_, fun p ha hp hf hr => ?_, fun ha hr => ?_, fun a ha hne hp => ?_⟩
  · rw [hact ha, State.abandonActive_unfired (s := s.heard) ha hp hf]
    exact congrArg _ (State.answerCue_joinWithdrawn s _ c tag .ok)
  · rw [hact ha, State.abandonActive_fired_alone (s := s.heard) _ ha hp hf hr]
    exact congrArg _ (State.answerCue_moves s _ tag .ok)
  · rw [hact ha, State.abandonActive_fired (s := s.heard) _ ha hf hr, State.abandonPending_held _ (by exact hp)]
    exact congrArg _ (State.answerCue_joinWithdrawn s _ p tag .ok)
  · rw [hact ha, State.abandonActive_releasing (s := s.heard) _ ha hr]
    exact congrArg _ (State.answerCue_moves s s.moves tag .ok)
  · rw [exec_cancel hl rx tag (Moves.find?_pending ha hne hp), State.abandon,
      State.abandonPending_held (s := s.heard) _ hp]
    exact congrArg _ (State.answerCue_joinWithdrawn s _ c tag .ok)

end Sys2Proof.Machine
end

section
/-! ARM (R72 to R76): its tests in order, its acceptance, and the statements about it. -/

namespace Sys2Proof.Machine

/-! ## The placement -/

section
variable {m : Moves} {a : Context} {id : Byte} {splice : Bool}

theorem Moves.place_empty (ha : m.active = none) (hp : m.pending = none) : m.place id splice = .asActive := by
  simp only [Moves.place, ha, hp]

theorem Moves.place_unfired (ha : m.active = some a) (hp : m.pending = none) (hf : a.phase.fired = false) :
    m.place id splice = .superseding := by
  simp only [Moves.place, ha, hp, hf]; rfl

theorem Phase.fired_of_playing {ph : Phase} (h : ph.playing = true) : ph.fired = true := by
  cases ph <;> first | rfl | exact nomatch h

theorem Moves.place_playing (ha : m.active = some a) (hp : m.pending = none) (hf : a.phase.playing = true)
    (hs : splice = true) (hne : a.moveId ≠ id) :
    m.place id splice = if a.preset.autoRelease then .refuse .spliceDenied else .asPending := by
  simp only [Moves.place, ha, hp, hf, Phase.fired_of_playing hf, hs, hne]; rfl

theorem Moves.place_taken (hp : m.pending.isSome = true) : m.place id splice = .refuse .busy := by
  obtain ⟨p, hp⟩ := Option.isSome_iff_exists.mp hp
  cases ha : m.active <;> simp only [Moves.place, ha, hp]

theorem Moves.place_busy (ha : m.active = some a) (hf : a.phase.fired = true)
    (h : splice = false ∨ a.phase.playing = false ∨ a.moveId = id) : m.place id splice = .refuse .busy := by
  cases hp : m.pending with
  | some p => exact Moves.place_taken (by rw [hp]; rfl)
  | none =>
    simp only [Moves.place, ha, hp, hf, Bool.not_true, Bool.false_eq_true, if_false]
    rcases h with h | h | h
    · rw [h]; exact ite_eq_left_iff.mpr fun _ => if_pos rfl
    · exact if_pos (by rw [h]; rfl)
    · simp only [h, if_true, ite_self]

end

/-! ## The tests before the placement -/

section
variable {s : State} (hl : s.live = true) (rx : Rx) (tag moveId slotByte : Byte) (targets : StationSet) (splice : Bool)
include hl

theorem exec_arm (hne : targets ≠ 0) : exec (.arm rx tag moveId slotByte targets splice) s = .next
    (if targets.has s.start.station = true then s.heard.armTested tag moveId slotByte splice else s.heard) :=
  State.arrive_taken (f := .arm tag moveId slotByte targets splice) hl (bne_iff_ne.mpr hne) rx fun _ t =>
    if targets.has t.start.station = true then t.armTested tag moveId slotByte splice else t

theorem exec_arm_target (ht : targets.has s.start.station = true) :
    exec (.arm rx tag moveId slotByte targets splice) s = .next (s.heard.armTested tag moveId slotByte splice) := by
  have hne : targets ≠ 0 := by
    rintro rfl
    simp [StationSet.has] at ht
  rw [exec_arm hl rx tag moveId slotByte targets splice hne, if_pos ht]

end

section
variable {s : State} {tag moveId slotByte : Byte} {splice : Bool} {slot : Fin 48}

theorem State.armTested_inactive (h : s.axis.nodeState ≠ .active) :
    s.armTested tag moveId slotByte splice = s.answer tag .refusedState := if_pos h

theorem State.armTested_argument (hn : s.axis.nodeState = .active) (h : 48 ≤ slotByte.toNat ∨ moveId = 0) :
    s.armTested tag moveId slotByte splice = s.answer tag .badArgument := by
  unfold State.armTested
  rw [if_neg (not_not.mpr hn)]
  rcases h with h | h
  · rw [slotOfByte_above h]
  · cases slotOfByte slotByte with
    | none => rfl
    | some slot => exact if_pos h

theorem State.armTested_slot (hn : s.axis.nodeState = .active) (hs : slotOfByte slotByte = some slot)
    (hm : moveId ≠ 0) : s.armTested tag moveId slotByte splice =
      match s.store.slots[slot].readable with
      | .error rc => s.answer tag rc
      | .ok p => s.armPlaced tag moveId slot p splice := by
  unfold State.armTested
  rw [if_neg (not_not.mpr hn), hs]
  exact if_neg hm

theorem State.armTested_unreadable (hn : s.axis.nodeState = .active) (hs : slotOfByte slotByte = some slot)
    (hm : moveId ≠ 0) {rc : ResultCode} (hr : s.store.slots[slot].readable = .error rc) :
    s.armTested tag moveId slotByte splice = s.answer tag rc := by
  rw [State.armTested_slot hn hs hm, hr]

theorem State.armTested_held (hn : s.axis.nodeState = .active) (hs : slotOfByte slotByte = some slot)
    (hm : moveId ≠ 0) {p : Preset} (hr : s.store.slots[slot] = .held p) :
    s.armTested tag moveId slotByte splice = s.armPlaced tag moveId slot p splice := by
  rw [State.armTested_slot hn hs hm, hr, Slot.readable]

theorem State.armPlaced_refused {p : Preset} {rc : ResultCode} (h : s.moves.place moveId splice = .refuse rc) :
    s.armPlaced tag moveId slot p splice = s.answer tag rc := by
  simp only [State.armPlaced, h]

theorem State.atStart_iff (s : State) (p : Preset) :
    s.atStart? p = true ↔ |s.ownPos - p.posAt 0| ≤ s.start.profile.startTol * 256 := by
  rw [State.atStart?, decide_eq_true_eq, mag_eq_abs]

theorem State.armActive_started {p : Preset} (h : s.atStart? p = true) : s.armActive tag moveId slot p =
    (s.acceptArm .active moveId slot p).answer tag .ok := if_pos h

theorem State.armActive_away {p : Preset} (h : s.start.profile.startTol * 256 < |s.ownPos - p.posAt 0|) :
    s.armActive tag moveId slot p = s.answer tag .notAtStart :=
  if_neg fun e => absurd ((s.atStart_iff p).mp e) (not_le.mpr h)

/-- An acceptance with room in the CUE lane: the context with its JOIN QUEUED (R76). -/
theorem State.acceptArm_room (h : s.link.load .cue < 4) (pl : Place) (p : Preset) :
    s.acceptArm pl moveId slot p = { s with
      moves := { s.moves.put pl (some (newJoint s.moves.nextSerial moveId slot p .queued)) with
        lastAbandon := none, nextSerial := s.moves.nextSerial + 1 }
      link := { s.link with cueLane := s.link.cueLane ++ [⟨.join moveId, some s.moves.nextSerial⟩] } } := by
  have hroom : s.link.room .cue = true := decide_eq_true h
  have hhand (q : Queued) : s.link.hand .cue q = { s.link with cueLane := s.link.cueLane ++ [q] } :=
    Link.hand_of_room h q
  unfold State.acceptArm State.hand
  simp only [hroom, if_true, State.putContext_link, hhand]
  rfl

/-- The node that heard an ARM and has taken its supersede. -/
theorem State.heard_superseded {a : Context} (ha : s.moves.active = some a) :
    s.heard.supersede = { s with
      moves := { s.moves with active := none, lastAbandon := some .superseded }
      link := { (if a.ownJoin = some .queued then s.link.withdrawJoin a.serial else s.link) with departed := none } } := by
  rw [State.supersede_held (s := s.heard) ha, State.heard_link, joinTakenBack_undeparted]
  rfl

end

/-- Settles O27: the three placements of an accepted ARM. -/
theorem acceptedArmBeginsTheGather : Obligations.AcceptedArmBeginsTheGather := by
  intro rx tag moveId slot targets splice s p hl ht hm hn hs hp hroom
  have hx : exec (.arm rx tag moveId (BitVec.ofNat 8 slot.val) targets splice) s =
      .next (s.heard.armPlaced tag moveId slot p splice) := by
    rw [exec_arm_target hl rx tag moveId _ targets splice ht,
      State.armTested_held (s := s.heard) hn (slotOfByte_ofNat slot) hm hs]
  refine ⟨fun ha hpos => ?_, fun a ha hf hpos => ?_, fun a ha hpl hsp hne hrel => ?_⟩
  · have hplace : s.heard.moves.place moveId splice = .asActive := Moves.place_empty ha hp
    have he : s.heard.armPlaced tag moveId slot p splice = (s.heard.acceptArm .active moveId slot p).answer tag .ok := by
      simp only [State.armPlaced, hplace]
      exact State.armActive_started ((State.atStart_iff _ _).mpr hpos)
    rw [State.acceptArm_room (s := s.heard) hroom] at he
    exact ⟨_, newJoint s.moves.nextSerial moveId slot p .queued, hx.trans (congrArg _ he),
      rfl, rfl, rfl, rfl, rfl, rfl, rfl, rfl, rfl, rfl, rfl, rfl⟩
  · have hplace : s.heard.moves.place moveId splice = .superseding := Moves.place_unfired ha hp hf
    have hsup := State.heard_superseded ha
    have hload : s.heard.supersede.link.load .cue < 4 := lt_of_le_of_lt (s.heard.supersede_load_le .cue) hroom
    have he : s.heard.armPlaced tag moveId slot p splice =
        (s.heard.supersede.acceptArm .active moveId slot p).answer tag .ok := by
      simp only [State.armPlaced, hplace]
      exact State.armActive_started ((State.atStart_iff _ _).mpr (by rw [hsup]; exact hpos))
    rw [State.acceptArm_room hload, hsup] at he
    exact ⟨_, newJoint s.moves.nextSerial moveId slot p .queued, hx.trans (congrArg _ he),
      rfl, rfl, rfl, rfl, rfl, rfl, rfl, rfl, rfl, rfl, rfl, rfl⟩
  · have hplace : s.heard.moves.place moveId splice = .asPending :=
      (Moves.place_playing ha hp hpl hsp hne).trans (if_neg (by rw [hrel]; decide))
    have he : s.heard.armPlaced tag moveId slot p splice =
        (s.heard.acceptArm .pending moveId slot p).answer tag .ok := by
      simp only [State.armPlaced, hplace]
    rw [State.acceptArm_room (s := s.heard) hroom] at he
    exact ⟨_, newJoint s.moves.nextSerial moveId slot p .queued, hx.trans (congrArg _ he),
      rfl, rfl, rfl, rfl, rfl, rfl, rfl, rfl, rfl, rfl, rfl, rfl⟩

/-- Settles O28: the tests of an ARM, each as the first that fails. -/
theorem refusedArmAnswersItsFirstFailedTest : Obligations.RefusedArmAnswersItsFirstFailedTest := by
  intro rx tag moveId slotByte targets splice s hl hne
  have hx := exec_arm hl rx tag moveId slotByte targets splice hne
  refine ⟨fun ht => ?_, fun ht hn => ?_, fun ht hn h => ?_, fun slot ht hn hslot hm => ?_⟩
  · exact hx.trans (congrArg _ (if_neg (by rw [ht]; decide)))
  all_goals rw [if_pos ht] at hx
  · exact hx.trans (congrArg _ (State.armTested_inactive (s := s.heard) hn))
  · exact hx.trans (congrArg _ (State.armTested_argument (s := s.heard) hn h))
  have hsl := slotOfByte_of_lt hslot
  have hun {rc : ResultCode} (hr : s.store.slots[slot].readable = .error rc) := hx.trans (congrArg _
    (State.armTested_unreadable (s := s.heard) hn hsl hm hr))
  refine ⟨fun h => hun (by rw [h]; rfl), fun h => hun (by rw [h]; rfl),
    fun h => hun (by rcases h with h | h <;> rw [h] <;> rfl), fun p h => ?_⟩
  have hplaced := hx.trans (congrArg _ (State.armTested_held (s := s.heard) hn hsl hm h))
  have href {rc : ResultCode} (hr : s.moves.place moveId splice = .refuse rc) := hplaced.trans (congrArg _
    (State.armPlaced_refused (s := s.heard) hr))
  refine ⟨fun hp => href (Moves.place_taken hp),
    fun a ha hf => ⟨fun hb => href (Moves.place_busy ha hf ?_), fun hp hsp hpl hid hrel => href ?_⟩,
    fun hp haway => ⟨fun ha => ?_, fun a ha hf => ?_⟩⟩
  · rcases hb with h | h | h | h
    · exact .inl h
    · exact .inr (.inl (by rw [h]; rfl))
    · exact .inr (.inl (by rw [h]; rfl))
    · exact .inr (.inr h)
  · rw [Moves.place_playing ha hp hpl hsp hid, if_pos hrel]
  · have hplace : s.heard.moves.place moveId splice = .asActive := Moves.place_empty ha hp
    refine hplaced.trans (congrArg _ ?_)
    simp only [State.armPlaced, hplace]
    rw [State.armActive_away (s := s.heard) haway]
    rfl
  · have hplace : s.heard.moves.place moveId splice = .superseding := Moves.place_unfired ha hp hf
    refine hplaced.trans (congrArg _ ?_)
    simp only [State.armPlaced, hplace]
    rw [State.heard_superseded ha, State.armActive_away (by exact haway)]
    rfl

end Sys2Proof.Machine
end

section
/-! Every arrival as one receipt (R162, R164); STICK, STATE and DESCRIPTOR (R45, R53, R85, R170), and the statements
about them. -/

namespace Sys2Proof.Machine

/-! ## Arrivals in general -/

/-- Every arrival is received by the tests of R162. -/
theorem exec_of_arrival {i : Instr} {rx : Rx} {f : Frame} (h : i.arrival? = some (rx, f)) (s : State) :
    ∃ t, exec i s = whenAble (s.live && f.within) s t := by
  cases i
  case halt | surge | arm | join | go | hold | resume | release | cancel | stick | stateArrival | descriptorArrival |
      query | capture | undo | editClear | commit | delete | unprotect | gotoStart | park | unpark | clear | restart =>
    obtain ⟨rfl, rfl⟩ := Prod.mk.inj (Option.some.inj h)
    exact ⟨_, rfl⟩
  all_goals exact nomatch h

/-- A SERVICE frame's arrival at a running node: for another station it has no effect, and at its target it has one of the
outcomes of its command. -/
theorem exec_of_service {i : Instr} {rx : Rx} {tag : Byte} {target : Station} {op : Operation}
    (h : i.arrival? = some (rx, .service tag target op)) {s : State} (hl : s.live = true) :
    ∃ t, exec i s = .next (if target = s.start.station then t else s.heard) ∧ ServiceOutcome s.heard tag t := by
  have taken {t : State} : whenAble (s.live && (Frame.service tag target op).within) s
      (if target = s.start.station then t else s.heard) = .next (if target = s.start.station then t else s.heard) :=
    whenAble_of (by rw [hl]; rfl) _ _
  cases i
  case query hd page => cases h; exact ⟨_, taken, s.heard.queryAt_outcome _ _⟩
  case capture hd dur e => cases h; exact ⟨_, taken, s.heard.captureAt_outcome _ _ _⟩
  case undo hd => cases h; exact ⟨_, taken, s.heard.undo_outcome _⟩
  case editClear hd => cases h; exact ⟨_, taken, s.heard.editClear_outcome _⟩
  case commit hd slot a p fi fo dw st => cases h; exact ⟨_, taken, s.heard.commitAt_outcome _ _ _ _ _ _ _ _⟩
  case delete hd slot => cases h; exact ⟨_, taken, s.heard.deleteAt_outcome _ _⟩
  case unprotect hd slot => cases h; exact ⟨_, taken, s.heard.unprotectAt_outcome _ _⟩
  case gotoStart hd slot => cases h; exact ⟨_, taken, s.heard.gotoStartAt_outcome _ _⟩
  case park hd mode => cases h; exact ⟨_, taken, s.heard.park_outcome _ _⟩
  case unpark hd => cases h; exact ⟨_, taken, s.heard.unparkAt_outcome _⟩
  case clear hd => cases h; exact ⟨_, taken, s.heard.clearAt_outcome _⟩
  case restart hd straps => cases h; exact ⟨_, taken, s.heard.restartAt_outcome _ _⟩
  all_goals exact nomatch h

/-! ## STICK -/

theorem channelFor_first {role : Role} {before after : List Channel} {c : Channel} (hb : ∀ b ∈ before, b.role ≠ role)
    (hc : c.role = role) : channelFor role (before ++ c :: after) = some c := by
  have hn : before.find? (fun c => c.role == role) = none :=
    List.find?_eq_none.mpr fun b h => by simpa using hb b h
  rw [channelFor, List.find?_append, hn, Option.none_or, List.find?_cons_of_pos (by simpa using hc)]

theorem channelFor_none {role : Role} {channels : List Channel} (hb : ∀ b ∈ channels, b.role ≠ role) :
    channelFor role channels = none := List.find?_eq_none.mpr fun b h => by simpa using hb b h

theorem clamp_eq {lo hi : Int} (h : lo ≤ hi) (x : Int) : clamp lo hi x = max lo (min hi x) := by
  unfold clamp
  split
  · omega
  · split <;> omega

/-- Settles O35: the first channel of the role, from the stick source. -/
theorem stickFrameWritesTheRecord : Obligations.StickFrameWritesTheRecord := by
  intro rx enable channels s hl hacc h1 h6
  have hx : exec (.stick rx enable channels) s = .next (s.heard.stickArrives rx.src enable channels) :=
    State.arrive_taken (f := .stick enable channels) hl (decide_eq_true ⟨h1, h6⟩) rx fun _ t =>
      t.stickArrives rx.src enable channels
  refine ⟨fun before c after hch hb hc hsrc => ?_, fun h => ?_⟩
  · have hfind : channelFor s.heard.start.profile.role channels = some c := by
      rw [hch]; exact channelFor_first hb hc
    rw [hx, State.stickArrives, if_pos ⟨hacc, hsrc⟩, hfind]
    simp only [clamp_eq (show (-2047 : Int) ≤ 2047 by decide)]
    rfl
  · rw [hx, State.stickArrives]
    rcases h with h | h
    · have hfind : channelFor s.heard.start.profile.role channels = none := channelFor_none h
      rw [hfind, ite_self]
    · rw [if_neg fun e => h e.2]

/-! ## STATE -/

section
variable {s : State} {src : Station} {r : StateReport} {c : Context}

theorem exec_stateArrival (hl : s.live = true) (hw : r.within = true) (rx : Rx) :
    exec (.stateArrival rx r) s = .next (s.heard.stateArrives rx.src (s.isLoopback rx (.state r)) r) :=
  State.arrive_taken (f := .state r) hl hw rx fun own t => t.stateArrives rx.src own r

theorem State.writeEntry_entry (s : State) (n m : Station) (e : PeerEntry) :
    (s.writeEntry n e).entry m = if m = n then some e else s.entry m := by
  unfold State.entry State.writeEntry
  by_cases h : m = n
  · subst h; simp
  · have hne : n.val ≠ m.val := fun g => h (Fin.ext g.symm)
    simp [h, hne]

theorem State.entry_congr {s t : State} (h : t.peers = s.peers) (n : Station) : t.entry n = s.entry n := by
  unfold State.entry; rw [h]

theorem State.setCheck_empty {p : Place} (h : s.moves.at p = none) (n : Station) : s.setCheck p n = s := by
  simp only [State.setCheck, h]

/-- The set check of the ACTIVE context against a report of its move that leaves it. -/
theorem State.setCheck_agrees {e : PeerEntry} (ha : s.moves.active = some c) (he : s.entry src = some e)
    (hs : splits c e = false) : s.setCheck .active src = s := by
  simp only [State.setCheck, Moves.at, ha, he]
  exact if_neg fun h => by simp [hs] at h

theorem State.setCheck_splits {e : PeerEntry} (ha : s.moves.active = some c) (he : s.entry src = some e)
    (hin : c.parts.has src = true) (hst : src ≠ s.start.station) (hg : c.phase ≠ .gather) (hr : c.phase ≠ .releasing)
    (hs : splits c e = true) : s.setCheck .active src = (s.abandonActive .moveSplit).handCancel c.moveId := by
  simp only [State.setCheck, Moves.at, ha, he]
  exact if_pos ⟨hin, hst, hg, hr, hs⟩

theorem splits_of_report {ph : Phase} {m : StationSet} (hrep : r.report = some (.move c.moveId ph))
    (hparts : r.parts = some m) : splits c (entryOf r) = (ph != .gather && m != c.parts) := by
  simp [splits, entryOf, hrep, hparts]

/-- A lone context past MP_GATHER abandoned: discarded unfired, in MP_RELEASING fired, its JOIN left where it is. -/
theorem State.abandonActive_gathered (ha : s.moves.active = some c) (hp : s.moves.pending = none)
    (hg : c.phase ≠ .gather) (hr : c.phase ≠ .releasing) (a : AbandonReason) : s.abandonActive a = { s with
      moves := { s.moves with lastAbandon := some a, active := if c.phase.fired = true then some c.release else none } } := by
  cases hf : c.phase.fired with
  | true => exact State.abandonActive_fired_alone a ha hp hf hr
  | false => rw [State.abandonActive_unfired ha hp hf, joinWithdrawn_settled _ hg]; rfl

end

/-- Settles O36: a STATE frame's entry, the splits it shows, and the clash of the node's own number. -/
theorem stateFrameWritesItsEntry : Obligations.StateFrameWritesItsEntry := by
  intro rx r s hl hw
  have hx := exec_stateArrival hl hw rx
  refine ⟨fun hsrc => ?_, fun hsrc hown hn hc => ?_⟩
  · have htaken : ¬ (rx.src = s.heard.start.station ∧ (!s.isLoopback rx (.state r)) = true) := fun e =>
      hsrc.elim (fun h => h e.1) fun h => by simp [h] at e
    let u := s.heard.writeEntry rx.src (entryOf r)
    have ht : exec (.stateArrival rx r) s = .next (u.updateNotice rx.src) := hx.trans (congrArg _ (if_neg htaken))
    have ho : u.MovesOnly (u.updateNotice rx.src) := State.updateNotice_only _ _
    have hentry (n : Station) : (u.updateNotice rx.src).entry n = if n = rx.src then some (entryOf r) else s.entry n :=
      (State.entry_congr ho.peers n).trans (s.heard.writeEntry_entry rx.src n (entryOf r))
    have hsrcEntry : u.entry rx.src = some (entryOf r) :=
      (s.heard.writeEntry_entry rx.src rx.src (entryOf r)).trans (if_pos rfl)
    refine ⟨_, ht, (hentry rx.src).trans (if_pos rfl), fun n h => (hentry n).trans (if_neg h),
      (congrArg Peers.stick ho.peers :), ho.limiter, ho.axis, ho.surge, ho.store, ho.drive, ho.blend, ho.start,
      fun hnone => ?_, fun c ph m ha hp hst hin hg hr hrep hparts => ?_⟩
    · rw [State.updateNotice_idle (by exact hnone)]
      exact ⟨rfl, rfl⟩
    · have hsplit := splits_of_report (c := c) hrep hparts
      refine ⟨fun hsame => ?_, fun hph hm hroom => ?_⟩
      · have hs : splits c (entryOf r) = false := by
          rw [hsplit]
          rcases hsame with h | h <;> simp [h]
        rw [State.updateNotice, State.setCheck_agrees (by exact ha) hsrcEntry hs, State.setCheck_empty (by exact hp)]
        exact ⟨rfl, rfl⟩
      · have hs : splits c (entryOf r) = true := by
          rw [hsplit]; simp [hph, hm]
        have hab : u.setCheck .active rx.src = ({ u with moves := { u.moves with
            lastAbandon := some .moveSplit, active := if c.phase.fired = true then some c.release else none } } :
            State).handCancel c.moveId := by
          rw [State.setCheck_splits (by exact ha) hsrcEntry hin hst hg hr hs,
            State.abandonActive_gathered (by exact ha) (by exact hp) hg hr]
        rw [State.updateNotice, hab, State.setCheck_empty (by exact hp)]
        exact ⟨Link.hand_cue (l := s.heard.link) hroom _, rfl⟩
  · have hclash : s.heard.stateArrives rx.src (s.isLoopback rx (.state r)) r = s.heard.clash :=
      if_pos ⟨hsrc, by rw [hown]; rfl⟩
    have hstop : s.heard.clash = (s.heard.setCause .stationClash).stopMotion := by
      have hc' : s.heard.axis.cause = .none := hc
      rw [State.clash, if_neg (by exact hn), if_pos hc']
    have ho := s.heard.clash_only
    let v := s.heard.setCause .stationClash
    refine ⟨s.heard.clash, hx.trans (congrArg _ hclash), ho.peers, ?_, fun ha hv => ?_, fun ha hv => ?_, fun hb => ?_,
      ho.store, ho.drive, ho.blend, ho.start, ?_, ho.window⟩
    all_goals rw [hstop]
    · exact State.stopMotion_cause v
    · exact (State.stopMotion_nodeState_moving (s := v) (.inl ha)).trans (if_pos hv)
    · exact (State.stopMotion_nodeState_moving (s := v) (.inl ha)).trans (if_neg hv)
    · have hb' : v.axis.nodeState = .braked := hb
      rw [State.stopMotion_standing (s := v) (NodeState.not_moving (by rw [hb']; decide) (by rw [hb']; decide)
        (by rw [hb']; decide))]
      exact hb
    · exact State.stopMotion_S v

/-! ## Frames that concern no block -/

theorem pageWithin_identity (content : List Byte) :
    pageWithin 0 content = (decide (content.length = 9) && identityWithin (content.drop 5)) := rfl

theorem pageWithin_slots (content : List Byte) :
    pageWithin 3 content = (decide (content.length = 49) && slotsWithin content) := rfl

/-- A station, role or profile status of page 0 beyond its encoding. -/
theorem identityWithin_false {station role status failing : Byte}
    (h : 16 ≤ station.toNat ∨ 6 ≤ role.toNat ∨ 10 ≤ status.toNat) :
    identityWithin [station, role, status, failing] = false := by
  have hn : ¬ (station.toNat < 16 ∧ role.toNat ≤ 5 ∧ status.toNat ≤ 9) := by omega
  simp only [identityWithin, Bool.and_eq_false_iff, decide_eq_false_iff_not]
  tauto

theorem all_false_of_mem {α : Type} {q : α → Bool} {l : List α} {x : α} (hx : x ∈ l) (h : q x = false) :
    l.all q = false := List.all_eq_false.mpr ⟨x, hx, by simp [h]⟩

/-- A slot status or a store operation of page 3 beyond its encoding. -/
theorem slotsWithin_false {content : List Byte} {b : Byte}
    (h : (∃ k, k < 48 ∧ content[k]? = some b ∧ 6 ≤ b.toNat) ∨ (content[48]? = some b ∧ 5 ≤ b.toNat)) :
    slotsWithin content = false := by
  rw [slotsWithin, Bool.and_eq_false_iff]
  rcases h with ⟨k, hk, hb, hv⟩ | ⟨hb, hv⟩
  · left
    refine all_false_of_mem (x := b) (List.mem_of_getElem? (i := k) ?_) (decide_eq_false (by omega))
    rw [List.getElem?_take_of_lt hk, hb]
  · right
    refine all_false_of_mem (x := b) (List.mem_of_getElem? (i := 0) ?_) (decide_eq_false (by omega))
    rw [List.getElem?_drop, hb]

theorem exec_discarded {i : Instr} {rx : Rx} {f : Frame} (h : i.arrival? = some (rx, f)) (hw : f.within = false)
    (s : State) : exec i s = .next s := by
  obtain ⟨t, hx⟩ := exec_of_arrival h s
  rw [hx, hw, Bool.and_false, whenAble_unable]

/-- Settles O37: frames for no block, for another station, and outside their encodings. -/
theorem framesNotForTheNodeChangeNothing : Obligations.FramesNotForTheNodeChangeNothing := by
  intro s hl
  refine ⟨fun rx page content hw => ?_, fun rx content hlen ⟨b, hb⟩ => ?_, fun rx content hlen ⟨b, hb⟩ => ?_,
    fun i rx tag target op hi ht => ?_, fun i rx f hi hw => exec_discarded hi hw s⟩
  · exact State.arrive_taken hl hw rx fun _ t => t
  · refine exec_discarded (i := .descriptorArrival rx 0 content) rfl ?_ s
    match content, hlen with
    | [_, _, _, _, _, station, role, status, failing], _ =>
      have hbad : 16 ≤ station.toNat ∨ 6 ≤ role.toNat ∨ 10 ≤ status.toNat := by
        rcases hb with ⟨h, hv⟩ | ⟨h, hv⟩ | ⟨h, hv⟩ <;> cases h
        · exact .inl hv
        · exact .inr (.inl hv)
        · exact .inr (.inr hv)
      refine (pageWithin_identity _).trans (Bool.and_eq_false_iff.mpr (.inr ?_))
      exact identityWithin_false hbad
  · refine exec_discarded (i := .descriptorArrival rx 3 content) rfl ?_ s
    exact (pageWithin_slots content).trans (Bool.and_eq_false_iff.mpr (.inr (slotsWithin_false hb)))
  · obtain ⟨t, hx, -⟩ := exec_of_service hi hl
    rw [hx, if_neg ht]

/-! ## SERVICE in general -/

/-- Settles O48: of a command's outcomes only a refusal leaves a code other than RC_OK. -/
theorem refusedServiceChangesTheEchoAlone : Obligations.RefusedServiceChangesTheEchoAlone := by
  intro i rx tag target op s t rc hi hl ht hx hecho hrc
  obtain ⟨u, hu, hout⟩ := exec_of_service hi hl
  rw [hu, if_pos ht] at hx
  obtain rfl := Host.Outcome.next.inj hx
  cases hout with
  | refused h => cases hecho; rfl
  | done h => cases hecho; exact absurd rfl hrc
  | restarted straps => cases hecho

end Sys2Proof.Machine
end

section
/-! The descriptor and the preset store's commands (R121 to R130, R179), and the statements about them. -/

namespace Sys2Proof.Machine

/-- A command that passes all its tests acts and is answered RC_OK. -/
theorem State.tested_of_all {s : State} {tag : Byte} {ts : List (Bool × ResultCode)} {act : State → State}
    (h : ∀ x ∈ ts, x.1 = true) : s.tested tag ts act = (act s).answer tag .ok := by
  rcases s.tested_cases tag ts act with ⟨x, hx, hf, -⟩ | ⟨-, he⟩
  · exact absurd ((h x hx).symm.trans hf) (by decide)
  · exact he

/-! ## QUERY -/

theorem State.pageContent_length {s : State} {page : Byte} (hi : s.start.image.length = 56) (hp : page.toNat ≤ 3) : (s.pageContent page).length = pageLength page := by
  have h : page.toNat = 0 ∨ page.toNat = 1 ∨ page.toNat = 2 ∨ page.toNat = 3 := by omega
  rcases h with h | h | h | h <;> simp [State.pageContent, pageLength, h, imageSlice, hi, bytes16]

theorem imageSlice_getElem? (img : List Byte) (off : Nat) {n k : Nat} (hk : k < n) :
    (imageSlice img off n)[k]? = img[k + off]? := by
  rw [imageSlice, List.getElem?_take_of_lt hk, List.getElem?_drop, Nat.add_comm]

/-- Settles O38: QUERY by its page. -/
theorem queryHandsADescriptor : Obligations.QueryHandsADescriptor := by
  intro h page s hl ht hi
  have hx : exec (.query h page) s = .next (s.heard.queryAt h.tag page) :=
    State.service_taken hl ht (.query page) fun t => t.queryAt h.tag page
  refine ⟨fun hp hroom => ⟨s.heard.pageContent page, State.pageContent_length (s := s.heard) hi hp, ?_, ?_, ?_, ?_, ?_⟩,
    fun hp => ?_⟩
  · rintro rfl; rfl
  · rintro rfl
    have hpage : s.heard.pageContent 1 = imageSlice s.start.image 1 18 ++ imageSlice s.start.image 44 8 := rfl
    have hlen : (imageSlice s.start.image 1 18).length = 18 := by simp [imageSlice, hi]
    refine ⟨fun k hk => ?_, fun k hk => ?_⟩
    · rw [hpage, List.getElem?_append_left (by rw [hlen]; exact hk), imageSlice_getElem? _ _ hk]
    · rw [hpage, List.getElem?_append_right (by rw [hlen]; omega), hlen, Nat.add_sub_cancel, imageSlice_getElem? _ _ hk]
  · rintro rfl k hk
    exact imageSlice_getElem? _ _ hk
  · rintro rfl
    have hpage : s.heard.pageContent 3 =
        s.store.slots.toList.map (fun sl => byteOf sl.status.code) ++ [byteOf s.store.op.code] := rfl
    have hlen : (s.store.slots.toList.map fun sl => byteOf sl.status.code).length = 48 := by simp
    refine ⟨fun k => ?_, ?_⟩
    · rw [hpage, List.getElem?_append_left (by rw [hlen]; exact k.isLt)]
      simp [byteOf]
    · rw [hpage, List.getElem?_append_right (by rw [hlen]), hlen]
      rfl
  · have hd : decide (page.toNat ≤ 3) = true := decide_eq_true hp
    rw [hx, State.queryAt, hd, State.tested_pass, State.tested_none, State.hand, State.heard_link,
      Link.hand_of_room (by exact hroom)]
    rfl
  · have hd : decide (page.toNat ≤ 3) = false := decide_eq_false (by omega)
    rw [hx, State.queryAt, hd, State.tested_fail]
    rfl

/-! ## The edit buffer -/

theorem State.bufferTests_pass {s : State} (hn : s.axis.nodeState = .active ∨ s.axis.nodeState = .holdPark)
    (hop : s.store.op.inFlight = false) : s.bufferTests = [(true, .refusedState), (true, .busy)] := by
  unfold State.bufferTests
  rcases hn with hn | hn <;> rw [hn, hop] <;> rfl

/-- Settles O39: CAPTURE, UNDO and EDIT_CLEAR with their first two tests passed. -/
theorem editBufferCommandsAct : Obligations.EditBufferCommandsAct := by
  intro h dur easing s hl ht hn hop
  have htests : s.heard.bufferTests = [(true, .refusedState), (true, .busy)] := State.bufferTests_pass (s := s.heard) hn hop
  have hcap : exec (.capture h dur easing) s = .next (s.heard.captureAt h.tag dur.toNat easing) :=
    State.service_taken hl ht (.capture dur easing) fun t => t.captureAt h.tag dur.toNat easing
  have hroom (hlt : s.store.buffer.length < 24) : s.heard.captureAt h.tag dur.toNat easing =
      (s.heard.setBuffer (s.store.buffer ++ [capturedKey s.store.buffer s.ownPos dur.toNat easing])).answer h.tag .ok := by
    have hd : decide (s.heard.store.buffer.length < Config.keysMax) = true := decide_eq_true hlt
    rw [State.captureAt, htests, hd]
    rfl
  refine ⟨fun he => ?_, fun hne hlt => ?_, fun hfull => ?_, ?_, ?_⟩
  · rw [hcap, hroom (by rw [he]; decide), he]; rfl
  · have hempty : s.store.buffer.isEmpty = false := List.isEmpty_eq_false_iff.mpr hne
    rw [hcap, hroom hlt, capturedKey, hempty]; rfl
  · have hd : decide (s.heard.store.buffer.length < Config.keysMax) = false := decide_eq_false (not_lt.mpr hfull)
    rw [hcap, State.captureAt, htests, hd]; rfl
  · refine (State.service_taken hl ht .undo fun t =>
      t.tested h.tag t.bufferTests fun u => u.setBuffer u.store.buffer.dropLast).trans ?_
    rw [htests]; rfl
  · refine (State.service_taken hl ht .editClear fun t =>
      t.tested h.tag t.bufferTests fun u => u.setBuffer []).trans ?_
    rw [htests]; rfl

/-! ## COMMIT, DELETE and UNPROTECT -/

/-- Settles O40: a COMMIT with all five tests passed. -/
theorem commitBeginsAWrite : Obligations.CommitBeginsAWrite := by
  intro h slot auto protect fIn fOut dwell sTrim s hl ht hop hbuf hst hguard
  refine (State.service_taken hl ht (.commit (BitVec.ofNat 8 slot.val) auto protect fIn fOut dwell sTrim) fun t =>
    t.commitAt h.tag (BitVec.ofNat 8 slot.val) (formedRecord t.store.buffer auto protect fIn.toNat fOut.toNat dwell.toNat
      sTrim.toNat)).trans (congrArg _ ?_)
  rw [State.commitAt, slotOfByte_ofNat]
  refine (State.tested_of_all ?_).trans rfl
  simp [hop, StoreOp.isLocked, StoreOp.busy, hbuf, hguard]
  exact hst

theorem StoreOp.not_locked_of_busy {op : StoreOp} (h : op.busy = true) : op.isLocked = false := by
  cases op <;> first | rfl | exact nomatch h

theorem Slot.status_empty {sl : Slot} : sl.status = .empty ↔ sl = .empty := by
  cases sl with
  | held p => simp only [Slot.status]; split <;> simp
  | _ => simp [Slot.status]

/-- Settles O41: DELETE, test by test. -/
theorem deleteByItsTests : Obligations.DeleteByItsTests := by
  intro h slotByte s hl ht
  have hx : exec (.delete h slotByte) s = .next (s.heard.deleteAt h.tag slotByte) :=
    State.service_taken hl ht (.delete slotByte) fun t => t.deleteAt h.tag slotByte
  refine ⟨fun habove => ?_, fun slot hslot => ?_⟩
  · rw [hx, State.deleteAt, slotOfByte_above habove]; rfl
  have hrun : exec (.delete h slotByte) s = .next (s.heard.tested h.tag
      [(!s.store.op.isLocked, .storeLocked), (!s.store.op.busy, .busy),
       (s.store.slots[slot].status != .guarded, .slotProtected), (!s.moves.guards slot, .slotBusy)]
      (fun t => t.beginErase slot h.tag)) := by
    rw [hx, State.deleteAt, slotOfByte_of_lt hslot]; rfl
  refine ⟨fun hop => ?_, fun hop => ?_, fun hop hst => ?_, fun hop hst hg => ?_, fun hop hst hg => ?_,
    fun hop hst hne hg => ?_⟩
  · rw [hrun, hop]; rfl
  · rw [hrun, StoreOp.not_locked_of_busy hop, hop]; rfl
  · rw [hrun, hop, hst]; rfl
  · rw [hrun, hop, hg, bne_iff_ne.mpr hst]; rfl
  · have hstatus : s.heard.store.slots[slot].status = .empty := Slot.status_empty.mpr hst
    rw [hrun, State.tested_of_all (by simp [hop, StoreOp.isLocked, StoreOp.busy, hst, Slot.status, hg]),
      State.beginErase, if_pos hstatus]
    rfl
  · have hstatus : s.heard.store.slots[slot].status ≠ .empty := fun e => hne (Slot.status_empty.mp e)
    rw [hrun, State.tested_of_all (by simp [hop, StoreOp.isLocked, StoreOp.busy, hg]; exact hst), State.beginErase,
      if_neg hstatus]
    rfl

/-- Settles O42: UNPROTECT in NS_BRAKED by the status of its slot. -/
theorem unprotectBeginsARewrite : Obligations.UnprotectBeginsARewrite := by
  intro h slot s hl ht hop hn
  have hrun : exec (.unprotect h (BitVec.ofNat 8 slot.val)) s = .next (s.heard.tested h.tag
      [(true, .refusedState), (true, .storeLocked), (true, .busy), (s.store.slots[slot].status != .empty, .slotEmpty),
       (s.store.slots[slot].status != .invalid, .slotInvalid)] (fun t => t.beginUnprotect slot h.tag)) := by
    refine (State.service_taken hl ht (.unprotect (BitVec.ofNat 8 slot.val)) fun t =>
      t.unprotectAt h.tag (BitVec.ofNat 8 slot.val)).trans (congrArg _ ?_)
    have hn' : decide (s.heard.axis.nodeState = .braked) = true := decide_eq_true hn
    have hop' : s.heard.store.op = .idle := hop
    rw [State.unprotectAt, slotOfByte_ofNat]
    simp only [hn', hop']
    rfl
  have hheld {p : Preset} (hs : s.store.slots[slot] = .held p) : exec (.unprotect h (BitVec.ofNat 8 slot.val)) s =
      .next ((s.heard.beginUnprotect slot h.tag).answer h.tag .ok) := by
    rw [hrun, hs, State.tested_of_all]
    cases hp : p.protect <;> simp [Slot.status, hp]
  have hbegin {p : Preset} (hs : s.store.slots[slot] = .held p) : s.heard.beginUnprotect slot h.tag =
      if p.protect then
        s.heard.beginOp slot .writing (.writing ⟨.unprotect, slot, h.tag, 0⟩ { p with protect := false })
      else s.heard := by
    have hs' : s.heard.store.slots[slot] = .held p := hs
    simp only [State.beginUnprotect, hs']
  refine ⟨fun p hs hp => ?_, fun p hs hp => ?_, fun hs => ?_, fun hs => ?_⟩
  · rw [hheld hs, hbegin hs, if_pos hp]; rfl
  · rw [hheld hs, hbegin hs, if_neg (by rw [hp]; decide)]; rfl
  · rw [hrun, hs]; rfl
  · rw [hrun, hs]; rfl

/-! ## The end of an operation -/

theorem StoreOp.record?_none {op : StoreOp} (h : op.inFlight = false) : op.record? = none := by
  cases op <;> first | rfl | exact nomatch h

theorem StoreOp.record?_some {st : StoreOp} {op : OpRecord} (h : (∃ p, st = .writing op p) ∨ st = .erasing op) :
    st.record? = some op := by
  rcases h with ⟨p, rfl⟩ | rfl <;> rfl

/-- Settles O43: the completion, good or failed, and the time limit. -/
theorem storeCompletionEndsTheOperation : Obligations.StoreCompletionEndsTheOperation := by
  intro s op hl
  have hx (good : Bool) : exec (.storeCompletion good) s = .next (s.storeCompletes good) := whenAble_of hl _ _
  refine ⟨fun p hop => ?_, fun hop hk => ?_, fun hop => ?_, fun hop good => ?_, fun ht hel hop => ?_⟩
  · rw [hx, State.storeCompletes, StoreOp.record?_some (.inl ⟨p, hop⟩)]
    simp only [if_true, State.storeDone, hop]
    rfl
  · rw [hx, State.storeCompletes, StoreOp.record?_some (.inr hop)]
    simp only [if_true, State.storeDone, hop, hk]
    rfl
  · rw [hx, State.storeCompletes, StoreOp.record?_some hop]
    rfl
  · rw [hx, State.storeCompletes, StoreOp.record?_none hop]
  · have hrec := StoreOp.record?_some hop
    have hlimit : Config.commitLimit ≤ op.elapsed + 1 := by rw [hel]; decide
    refine (whenAble_of (by rw [ht, hrec]; exact decide_eq_true hlimit) _ _).trans ?_
    simp only [State.storeReaction, hrec, if_pos hlimit, Store.cutRegions_false]
    rfl

end Sys2Proof.Machine
end

section
/-! GOTO_START (R112), and the commands of the axis state machine (8.2, 8.3, 8.6, 8.7): the statements about them. -/

namespace Sys2Proof.Machine

/-! ## GOTO_START -/

theorem ceilDiv_bounds {n d : Int} (hd : 0 < d) : n ≤ d * ceilDiv n d ∧ d * (ceilDiv n d - 1) < n := by
  have hdiv := Int.mul_ediv_add_emod (n + d - 1) d
  have hlo := Int.emod_nonneg (n + d - 1) hd.ne'
  have hhi := Int.emod_lt_of_pos (n + d - 1) hd
  unfold ceilDiv
  constructor
  · omega
  · rw [mul_sub, mul_one]; omega

/-- The duration of an approach is the ceiling of R112 within 1..30000. -/
theorem approachPeriods_ceiling {delta v : Int} (hv : 1 ≤ v) :
    (approachPeriods delta v < 30000 → 3 * |delta| ≤ 2 * v * approachPeriods delta v) ∧
    (2 ≤ approachPeriods delta v → 2 * v * ((approachPeriods delta v : Int) - 1) < 3 * |delta|) := by
  have hd : 0 < 2 * v := by omega
  obtain ⟨hle, hlt⟩ := ceilDiv_bounds (n := 3 * |delta|) hd
  have hn : (approachPeriods delta v : Int) = max 1 (min 30000 (ceilDiv (3 * |delta|) (2 * v))) := by
    rw [approachPeriods, ← mag_eq_abs, ← clamp_eq (by decide)]
    exact Int.toNat_of_nonneg (le_trans (by decide) (clamp_within (by decide) _).1)
  constructor
  · intro h
    refine hle.trans (mul_le_mul_of_nonneg_left ?_ hd.le)
    omega
  · intro h
    refine lt_of_le_of_lt (mul_le_mul_of_nonneg_left ?_ hd.le) hlt
    omega

/-- Settles O44: GOTO_START with its tests passed. -/
theorem gotoStartPostsAnApproach : Obligations.GotoStartPostsAnApproach := by
  intro h slot s p hl ht hn hs hm hv
  have hat : s.heard.gotoStartAt h.tag (BitVec.ofNat 8 slot.val) = (s.heard.beginApproach slot p).answer h.tag .ok := by
    have hn' : ¬ s.heard.axis.nodeState ≠ .active := not_not.mpr hn
    have hs' : s.heard.store.slots[slot] = .held p := hs
    rw [State.gotoStartAt, if_neg hn', slotOfByte_ofNat]
    simp only [hs', Slot.readable]
    exact State.tested_of_all (by simpa using hm)
  have hx := (State.service_taken hl ht (.gotoStart (BitVec.ofNat 8 slot.val)) fun t =>
    t.gotoStartAt h.tag (BitVec.ofNat 8 slot.val)).trans (congrArg _ hat)
  obtain ⟨-, hpending⟩ := (Moves.none?_iff _).mp hm
  obtain ⟨h1, h2⟩ := approachPeriods_within (p.posAt 0 - s.ownPos) s.start.profile.vApproach
  obtain ⟨hle, hlt⟩ := approachPeriods_ceiling (delta := p.posAt 0 - s.ownPos) hv
  exact ⟨_, _, _, hx, rfl, hpending, rfl, rfl, rfl, rfl, rfl, rfl, rfl, h1, h2, hle, hlt, rfl, rfl⟩

/-! ## PARK and UNPARK -/

theorem State.still_iff (s : State) : s.still = true ↔ s.limiter.vc = 0 ∧ s.moves.none? = true := by
  rw [State.still, Bool.and_eq_true, decide_eq_true_eq]

theorem State.unparkAt_holdPark {s : State} (h : s.axis.nodeState = .holdPark) (tag : Byte) :
    s.unparkAt tag = ({ s with axis := { s.axis with unparkPending := true } } : State).answer tag .ok := by
  unfold State.unparkAt
  rw [h]

/-- Settles O45: PARK and UNPARK by the node state. -/
theorem parkAndUnparkChangeTheState : Obligations.ParkAndUnparkChangeTheState := by
  intro h mode s hl ht
  have hpark : exec (.park h mode) s = .next (s.heard.tested h.tag
      [(decide (s.axis.nodeState = .active), .refusedState), (s.still, .notStill)]
      fun u => u.enter (ParkMode.target mode)) :=
    State.service_taken hl ht (.park mode) fun t => t.tested h.tag
      [(decide (t.axis.nodeState = .active), .refusedState), (t.still, .notStill)] fun u => u.enter (ParkMode.target mode)
  have hunpark : exec (.unpark h) s = .next (s.heard.unparkAt h.tag) :=
    State.service_taken hl ht .unpark fun t => t.unparkAt h.tag
  refine ⟨fun hn => ?_, fun hn hmoving => ?_, fun hn hv hm => ?_, fun hn hh => ?_, fun pos hn hh hc hpos hbound => ?_,
    fun hn => ?_⟩
  · rw [hpark, decide_eq_false hn]; rfl
  · have hstill : s.still = false := Bool.eq_false_iff.mpr fun e => by
      obtain ⟨hv, hm⟩ := s.still_iff.mp e
      rcases hmoving with g | g
      · exact g hv
      · rw [hm] at g; cases g
    rw [hpark, decide_eq_true hn, hstill]; rfl
  · have hstill : s.still = true := s.still_iff.mpr ⟨hv, hm⟩
    let u := s.heard.enter (ParkMode.target mode)
    have ho : s.heard.AxisOnly u := State.enter_only _ _
    have haxis : u.axis = s.axis.entered (ParkMode.target mode) := State.enter_axis _ _
    have hlim : u.limiter = limiterAt s.limiter s.drive.actual (ParkMode.target mode) := State.enter_limiter _ _
    have hmoves : u.moves = s.moves := State.enter_moves_idle (s := s.heard) hm _
    refine ⟨u.answer h.tag .ok, ?_, ?_, ?_, ?_, ?_, rfl, ?_, ?_, hmoves, ho.store, ho.drive, ho.peers, ho.blend, ho.start,
      ?_, ?_⟩
    · rw [hpark, decide_eq_true hn, hstill]; rfl
    · rw [State.answer_axis, haxis]; cases mode <;> rfl
    · rw [State.answer_axis, haxis]; cases mode <;> rfl
    · rw [State.answer_axis, haxis]; cases mode <;> rfl
    · rw [State.answer_axis, haxis]; rfl
    · rw [State.answer_limiter, hlim]; cases mode <;> rfl
    · rw [State.answer_limiter, hlim]; cases mode <;> simp [limiterAt, ParkMode.target, NodeState.still, hv]
    · rw [State.answer_axis, haxis]; rfl
    · rw [State.answer_axis, haxis]; rfl
  · have hn' : s.heard.axis.nodeState = .braked := hn
    have hh' : s.heard.axis.haltLatch = true := hh
    rw [hunpark]
    simp only [State.unparkAt, hn', hh']
    rfl
  · have hn' : s.heard.axis.nodeState = .braked := hn
    have hh' : s.heard.axis.haltLatch = false := hh
    have hc' : s.heard.axis.cause = .none := hc
    let u := s.heard.enter .brakeRelease
    have hne : s.heard.axis.nodeState ≠ .active := by rw [hn']; decide
    have ho : s.heard.AxisOnly u := State.enter_only _ _
    have haxis : u.axis = s.axis.entered .brakeRelease := State.enter_axis _ _
    have hlink : u.link = s.heard.link := State.enter_link hne _
    have hS : clampFine (pos * 256) = pos * 256 := by
      obtain ⟨hlo, hhi⟩ := abs_le.mp hbound
      refine (clamp_eq (by decide) _).trans ?_
      simp only [Config.fineBound]
      omega
    have hlim : u.limiter = ⟨pos * 256, 0, 0⟩ := by
      refine (State.enter_limiter _ _).trans ?_
      show limiterAt s.limiter s.drive.actual .brakeRelease = _
      rw [hpos, ← hS]
      rfl
    refine ⟨u.answer h.tag .ok, ?_, ?_, ?_, ?_, ?_, hlim, ?_, State.enter_moves_standing hne _, ho.store, ho.drive,
      ho.peers, ho.blend, ho.start⟩
    · rw [hunpark]
      simp only [State.unparkAt, hn', hh', hc']
      rfl
    · rw [State.answer_axis, haxis]; rfl
    · rw [State.answer_axis, haxis]; rfl
    · rw [State.answer_axis, haxis]; rfl
    · rw [State.answer_axis, haxis]; rfl
    · rw [State.answer_link, hlink]; rfl
  · rw [hunpark, State.unparkAt_holdPark (s := s.heard) hn]
    rfl

/-! ## CLEAR -/

section
variable {s : State}

theorem State.clearAt_acts (h : s.clearActs = true) (tag : Byte) :
    s.clearAt tag = (s.unlocked.cleared).answer tag .ok := if_pos h

theorem State.clearAt_idle (h : s.clearActs = false) (tag : Byte) : s.clearAt tag =
    if s.store.op.isLocked then s.unlocked.answer tag .ok else s.answer tag .refusedState := by
  rw [State.clearAt, h]; rfl

theorem State.unlocked_eq (s : State) :
    s.unlocked = { s with store := { s.store with op := if s.store.op = .locked then .idle else s.store.op } } := by
  unfold State.unlocked
  cases h : s.store.op
  case locked => rfl
  all_goals (simp only [StoreOp.isLocked, reduceCtorEq, if_false, Bool.false_eq_true]; rw [← h])

theorem State.unlocked_of_unlocked (h : s.store.op ≠ .locked) : s.unlocked = s := by
  rw [State.unlocked_eq, if_neg h]

theorem State.clearActs_stopped (hn : s.axis.nodeState = .stopped) (he : s.drive.lines.estop.active = false)
    (ho : s.link.owed < 9) : s.clearActs = true := by
  simp [State.clearActs, hn, he, ho]

theorem State.clearActs_faulted (hn : s.axis.nodeState = .faulted) (he : s.drive.lines.driveFault.active = false)
    (ho : s.link.owed < 9) : s.clearActs = true := by
  simp [State.clearActs, hn, he, ho]

theorem State.clearActs_braked (hn : s.axis.nodeState = .braked) (he : s.drive.lines.estop.active = false)
    (ho : s.link.owed < 9) (h : s.axis.haltLatch = true ∨ s.axis.cause ≠ .none) : s.clearActs = true := by
  simp [State.clearActs, hn, he, ho, h]

theorem State.clearActs_active (hn : s.axis.nodeState = .active) : s.clearActs = false := by
  simp only [State.clearActs, hn]

end

/-- Settles O46: CLEAR by node state, the store's lock beside it. -/
theorem clearActsByNodeState : Obligations.ClearActsByNodeState := by
  intro h s hl ht howed
  have hx : exec (.clear h) s = .next (s.heard.clearAt h.tag) := State.service_taken hl ht .clear fun t => t.clearAt h.tag
  let st : Store := { s.store with op := if s.store.op = .locked then .idle else s.store.op }
  let u : State := { s.heard with store := st }
  have hu : s.heard.unlocked = u := s.heard.unlocked_eq
  refine ⟨fun hn he => ?_, fun hn he => ?_, fun hn he hlock hc => ?_, fun hn hlock => ?_, fun hn hlock => ?_⟩
  · let v : State := { u with axis := { u.axis with haltLatch := false, cause := .none } }
    have hun : u.axis.nodeState = .stopped := hn
    have hv : v.axis.nodeState ≠ .active := fun e => nomatch hun.symm.trans e
    have hcl : u.cleared = { v with axis := v.axis.entered .active } := by
      rw [State.cleared, hun]
      exact State.enter_active hv
    have hat := State.clearAt_acts (State.clearActs_stopped (s := s.heard) hn he howed) h.tag
    rw [hu, hcl] at hat
    exact ⟨_, hx.trans (congrArg _ hat), rfl, rfl, rfl, rfl, rfl, rfl, rfl, rfl, rfl, rfl, rfl, rfl⟩
  · let v := u.setCause .none
    have hun : u.axis.nodeState = .faulted := hn
    have hv : v.axis.nodeState ≠ .active := fun e => nomatch hun.symm.trans e
    have hcl : u.cleared = v.enter .braked := by rw [State.cleared, hun]
    have ho : v.AxisOnly (v.enter .braked) := State.enter_only _ _
    have haxis : (v.enter .braked).axis = { s.axis with cause := .none }.entered .braked := State.enter_axis _ _
    have hlink : (v.enter .braked).link = s.heard.link := State.enter_link hv _
    have hat := State.clearAt_acts (State.clearActs_faulted (s := s.heard) hn he howed) h.tag
    rw [hu, hcl] at hat
    refine ⟨_, hx.trans (congrArg _ hat), ?_, ?_, ?_, ?_, ?_, State.enter_moves_standing hv _, ho.peers, ho.blend, ho.drive,
      ho.start, State.enter_S (by decide), ?_, ho.store⟩
    · rw [State.answer_axis, haxis]; rfl
    · rw [State.answer_axis, haxis]; rfl
    · rw [State.answer_axis, haxis]; rfl
    · rw [State.answer_axis, haxis]; rfl
    · rw [State.answer_axis, haxis]; rfl
    · rw [State.answer_link, hlink]; rfl
  · have hlock' : s.heard.store.op ≠ .locked := hlock
    have hn' : s.heard.axis.nodeState = .braked := hn
    rw [hx, State.clearAt_acts (State.clearActs_braked (s := s.heard) hn he howed hc),
      State.unlocked_of_unlocked hlock', State.cleared, hn']
    rfl
  · rw [hx, State.clearAt_idle (State.clearActs_active (s := s.heard) hn),
      if_pos (show s.heard.store.op.isLocked = true by rw [show s.heard.store.op = .locked from hlock]; rfl),
      State.unlocked_eq, if_pos (by exact hlock)]
    rfl
  · have hno : ¬ s.heard.store.op.isLocked = true := fun e => hlock (by
      have e' : s.store.op.isLocked = true := e
      cases hop : s.store.op <;> first | rfl | (rw [hop] at e'; exact nomatch e'))
    rw [hx, State.clearAt_idle (State.clearActs_active (s := s.heard) hn), if_neg hno]
    rfl

/-! ## RESTART -/

theorem rests_iff (n : NodeState) :
    n.rests = true ↔ n ∈ [NodeState.braked, .stopped, .faulted, .configFault] := by
  cases n <;> decide

/-- Settles O47: RESTART by the node state and the store. -/
theorem restartBeginsAStart : Obligations.RestartBeginsAStart := by
  intro h straps s hl ht
  have hx : exec (.restart h straps) s = .next (s.heard.restartAt h.tag straps) :=
    State.service_taken hl ht .restart fun t => t.restartAt h.tag straps
  refine ⟨fun hn hb => ?_, fun hn hb => ?_, fun hn => ?_⟩
  · have hr : s.heard.axis.nodeState.rests = true := (rests_iff _).mpr hn
    have hb' : s.heard.store.op.busy = false := hb
    have hat : s.heard.restartAt h.tag straps = s.heard.begun straps false := by
      rw [State.restartAt, hr, hb']; rfl
    exact ⟨_, hx.trans (congrArg _ hat), rfl, rfl, rfl, rfl, rfl, rfl, rfl, Store.cutRegions_false _, rfl, rfl⟩
  · have hr : s.heard.axis.nodeState.rests = true := (rests_iff _).mpr hn
    have hb' : s.heard.store.op.busy = true := hb
    rw [hx, State.restartAt, hr, hb']; rfl
  · have hr : s.heard.axis.nodeState.rests = false := Bool.eq_false_iff.mpr fun e => hn ((rests_iff _).mp e)
    rw [hx, State.restartAt, hr]; rfl

end Sys2Proof.Machine
end

section
/-! The demand (1.3 to 1.5), the substitutes for a silent peer (R49) and the path of a preset (R96): the statements about
them. -/

namespace Sys2Proof

/-! ## The path over keyframe boundaries -/

namespace Preset
variable {p : Preset} (h : p.wellFormed = true)
include h

theorem bound_strict {i j : Nat} (hij : i < j) (_hj : j < p.keys.length) : p.bound i < p.bound j := by
  have h1 := Preset.bound_lt_succ h (k := i) (by omega)
  have h2 := p.bound_mono (j := i + 1) (k := j) (by omega)
  omega

/-- The segment index at a boundary: the segment that begins there, and at the total the last one (R93). -/
theorem segIndex_bound {j : Nat} (_hj : j < p.keys.length) : p.segIndex (p.bound j) = min j (p.keys.length - 2) := by
  by_cases hlast : j ≤ p.keys.length - 2
  · rw [Nat.min_eq_left hlast]
    exact Preset.passed_eq p _ j le_rfl _ hlast fun i hi hin => bound_strict h hi (by omega)
  · rw [Nat.min_eq_right (by omega)]
    exact Preset.passed_eq p _ _ (p.bound_mono (by omega)) _ le_rfl fun i hi hin => by omega

theorem segLen_pos {k : Nat} (hk : k + 1 < p.keys.length) : 0 < p.segLen k := by
  have := (Preset.wellFormed_durAt h hk).1
  rw [Preset.segLen]; omega

/-- At a boundary the path is the change of position to its keyframe. -/
theorem path_bound {j : Nat} (hj : j < p.keys.length) :
    p.path (p.segIndex (p.bound j)) (p.bound j) = p.posAt j - p.posAt 0 := by
  obtain ⟨h2, -⟩ := Preset.wellFormed_keys h
  rw [segIndex_bound h hj]
  by_cases hlast : j ≤ p.keys.length - 2
  · rw [Nat.min_eq_left hlast, Preset.path, Nat.sub_self, Preset.offset_zero, add_zero]
  · obtain ⟨k, rfl⟩ : ∃ k, j = k + 1 := ⟨j - 1, by omega⟩
    rw [Nat.min_eq_right (by omega), show p.keys.length - 2 = k by omega, Preset.path,
      show p.bound (k + 1) - p.bound k = p.segLen k from Nat.add_sub_cancel_left _ _,
      Preset.offset_full p k (segLen_pos h hj), Preset.delta]
    ring

end Preset

/-- The differences of a quantity along a list of times sum to the difference of its ends. -/
theorem sum_differences (f : Nat → Int) (t : Nat) (ts : List Nat) (u : Nat) :
    (((t :: ts ++ [u]).zip (t :: ts ++ [u]).tail).map (fun x => f x.2 - f x.1)).sum = f u - f t := by
  induction ts generalizing t with
  | nil => simp
  | cons a ts ih =>
    have hih := ih a
    simp only [List.cons_append, List.tail_cons] at hih ⊢
    rw [List.zip_cons_cons, List.map_cons, List.sum_cons, hih]
    ring

namespace Machine

/-- Settles O53: the contributions are the differences of one path. -/
theorem segmentContributionsSumToItsChange : Obligations.SegmentContributionsSumToItsChange := by
  intro p k ts h hk _
  refine (sum_differences (fun t => p.path (p.segIndex t) t) (p.bound k) ts (p.bound (k + 1))).trans ?_
  rw [Preset.path_bound h hk, Preset.path_bound h (by omega)]
  ring

/-! ## Peers that speak and peers that are silent -/

section
variable {s : State} {n : Station}

theorem State.freshEntry_of_some {e : PeerEntry} (he : s.entry n = some e) :
    s.freshEntry n = if e.age ≤ 8 then some e else none := by
  have hiff : freshAge e.age = decide (e.age ≤ 8) := decide_eq_decide.mpr Nat.lt_succ_iff
  simp only [State.freshEntry, he, hiff, decide_eq_true_eq]

theorem State.freshEntry_of_none (he : s.entry n = none) : s.freshEntry n = none := by
  simp only [State.freshEntry, he]

theorem State.freshEntry_of_stale (h : ∀ e, s.entry n = some e → 9 ≤ e.age) : s.freshEntry n = none := by
  cases he : s.entry n with
  | none => exact State.freshEntry_of_none he
  | some e =>
    have := h e he
    rw [State.freshEntry_of_some he, if_neg (by omega)]

theorem State.sourceVelocity_of_source (h : s.start.profile.followSource = some n) :
    s.sourceVelocity = ((s.freshEntry n).map (·.velocity)).getD 0 := by
  simp only [State.sourceVelocity, h]

end

/-- Settles O52: without a FRESH entry there is neither velocity nor extension to read. -/
theorem silentPeerGivesTheSubstitutes : Obligations.SilentPeerGivesTheSubstitutes := by
  intro s n h
  have hfresh := State.freshEntry_of_stale h
  refine ⟨fun hsrc => ?_, ?_⟩
  · have hv : s.sourceVelocity = 0 := by rw [State.sourceVelocity_of_source hsrc, hfresh]; rfl
    exact ⟨hv, by rw [State.followTerm, hv, zero_mul]; rfl⟩
  · simp only [State.extension, hfresh]

/-! ## Rounding -/

section
variable {d : Int} (hd : 0 < d)
include hd

theorem roundHalfAway_neg (n : Int) : roundHalfAway (-n) d = -roundHalfAway n d := by
  have hz : d / (2 * d) = 0 := Int.ediv_eq_zero_of_lt (by omega) (by omega)
  unfold roundHalfAway
  rcases lt_trichotomy n 0 with h | rfl | h
  · rw [if_neg (by omega), if_pos h, neg_neg]
  · simp [hz]
  · rw [if_pos (by omega), if_neg (by omega), neg_neg]

theorem roundHalfAway_of_nonneg {n : Int} (hn : 0 ≤ n) :
    2 * (d * roundHalfAway n d) ≤ 2 * n + d ∧ 2 * n + d < 2 * (d * roundHalfAway n d) + 2 * d ∧
    0 ≤ roundHalfAway n d := by
  rw [roundHalfAway, if_neg (by omega)]
  have hdiv := Int.mul_ediv_add_emod (2 * n + d) (2 * d)
  have hlo := Int.emod_nonneg (2 * n + d) (b := 2 * d) (by omega)
  have hhi := Int.emod_lt_of_pos (2 * n + d) (b := 2 * d) (by omega)
  rw [mul_assoc] at hdiv
  exact ⟨by omega, by omega, Int.ediv_nonneg (by omega) (by omega)⟩

/-- The quotient is the nearest integer, and of two at the same distance the one farther from zero. -/
theorem roundHalfAway_nearest (n : Int) :
    2 * |n - d * roundHalfAway n d| ≤ d ∧
    (2 * |n - d * roundHalfAway n d| = d → |n| < |d * roundHalfAway n d|) := by
  have key {n : Int} (hn : 0 ≤ n) : 2 * |n - d * roundHalfAway n d| ≤ d ∧
      (2 * |n - d * roundHalfAway n d| = d → |n| < |d * roundHalfAway n d|) := by
    obtain ⟨h1, h2, h3⟩ := roundHalfAway_of_nonneg hd hn
    have h4 : 0 ≤ d * roundHalfAway n d := mul_nonneg hd.le h3
    rw [abs_of_nonneg hn, abs_of_nonneg h4]
    rcases abs_cases (n - d * roundHalfAway n d) with ⟨h, -⟩ | ⟨h, -⟩ <;> rw [h] <;> constructor <;> omega
  rcases le_total 0 n with hn | hn
  · exact key hn
  · have h := key (n := -n) (by omega)
    rwa [roundHalfAway_neg hd, mul_neg, abs_neg, abs_neg, sub_neg_eq_add, ← abs_neg, neg_add, neg_neg,
      ← sub_eq_add_neg] at h

end

/-! ## The weighted blend -/

section
variable {vj vp : Int} {w sTrim : Nat}

theorem blendNumerator_neg : blendNumerator (-vj) ⟨w, sTrim, -vp⟩ = -blendNumerator vj ⟨w, sTrim, vp⟩ := by
  simp only [blendNumerator]; ring

/-- The numerator weighs the two velocities by at most 65536 each. -/
theorem abs_blendNumerator_le (hw : w ≤ 256) (hs : sTrim ≤ 256) :
    |blendNumerator vj ⟨w, sTrim, vp⟩| ≤ 65536 * (|vj| + |vp|) := by
  have hws : (w : Int) * sTrim ≤ w * 256 := mul_le_mul_of_nonneg_left (by omega) (by omega)
  have hws0 : (0 : Int) ≤ w * sTrim := by positivity
  have hN : blendNumerator vj ⟨w, sTrim, vp⟩ = (256 * (256 - (w : Int)) + w * sTrim) * vj + 256 * w * vp := by
    simp only [blendNumerator]; ring
  calc |blendNumerator vj ⟨w, sTrim, vp⟩|
      ≤ |(256 * (256 - (w : Int)) + w * sTrim) * vj| + |256 * (w : Int) * vp| := hN ▸ abs_add_le _ _
    _ = (256 * (256 - (w : Int)) + w * sTrim) * |vj| + 256 * (w : Int) * |vp| := by
        rw [abs_mul, abs_mul, abs_of_nonneg (a := 256 * (256 - (w : Int)) + w * sTrim) (by omega),
          abs_of_nonneg (a := 256 * (w : Int)) (by omega)]
    _ ≤ 65536 * |vj| + 65536 * |vp| :=
        add_le_add (mul_le_mul_of_nonneg_right (by omega) (abs_nonneg _))
          (mul_le_mul_of_nonneg_right (by omega) (abs_nonneg _))
    _ = 65536 * (|vj| + |vp|) := by ring

end

/-! ## The stick demand -/

/-- A floored share of `vs` by a part `n` of a positive whole `M` (R6, R7). -/
theorem floored_share {n M vs : Int} (hM : 0 < M) (h0 : 0 ≤ n) (h1 : n ≤ M) (hv : 0 ≤ vs) :
    0 ≤ n * vs / M ∧ n * vs / M ≤ vs ∧ n * vs / M * M ≤ n * vs ∧ n * vs < (n * vs / M + 1) * M :=
  ⟨Int.ediv_nonneg (mul_nonneg h0 hv) hM.le,
    Int.ediv_le_of_le_mul hM (by rw [mul_comm vs]; exact mul_le_mul_of_nonneg_right h1 hv),
    Int.ediv_mul_le _ hM.ne', Int.lt_ediv_add_one_mul_self _ hM⟩

theorem stickMagnitude_bounds (curve : Curve) {vs m M : Int} (hM : 0 < M) (h0 : 0 ≤ m) (h1 : m ≤ M) (hv : 0 ≤ vs) :
    0 ≤ stickMagnitude curve vs m M ∧ stickMagnitude curve vs m M ≤ vs ∧
    (curve = .linear → stickMagnitude curve vs m M * M ≤ m * vs ∧ m * vs < (stickMagnitude curve vs m M + 1) * M) ∧
    (curve = .square → stickMagnitude curve vs m M * (M * M) ≤ m * m * vs ∧
      m * m * vs < (stickMagnitude curve vs m M + 1) * (M * M)) := by
  cases curve with
  | linear =>
    obtain ⟨hlo, hhi, hfloor⟩ := floored_share hM h0 h1 hv
    exact ⟨hlo, hhi, fun _ => hfloor, nofun⟩
  | square =>
    obtain ⟨hlo, hhi, hfloor⟩ :=
      floored_share (mul_pos hM hM) (mul_nonneg h0 h0) (mul_le_mul h1 h1 h0 hM.le) hv
    exact ⟨hlo, hhi, nofun, fun _ => hfloor⟩

section
variable {p : Profile} {d : Int}

theorem shapedDemand_inside (h : |d| ≤ p.deadband) : shapedDemand p d = 0 := by
  rw [shapedDemand, if_pos (by rwa [mag_eq_abs])]

theorem shapedDemand_beyond (h0 : 0 ≤ p.deadband) (h : p.deadband < |d|) :
    shapedDemand p d = if 0 < d then stickMagnitude p.curve p.vs (|d| - p.deadband) (2047 - p.deadband)
      else -stickMagnitude p.curve p.vs (|d| - p.deadband) (2047 - p.deadband) := by
  rw [shapedDemand, mag_eq_abs, if_neg (by omega), signOf]
  rcases lt_trichotomy d 0 with hd | rfl | hd
  · rw [if_pos hd, if_neg (by omega), neg_one_mul]
  · rw [abs_zero] at h; omega
  · rw [if_neg (by omega), if_pos hd, if_pos hd, one_mul]

end

section
variable {s : State}

theorem State.stickDemand_of_none (h : s.peers.stick = none) : s.stickDemand = 0 := by
  simp only [State.stickDemand, h]

theorem State.stickDemand_of_some {r : StickRecord} (h : s.peers.stick = some r) :
    s.stickDemand = if r.age ≤ 8 ∧ r.enable = true ∧ s.axis.nodeState ≠ .holdPark
      then shapedDemand s.start.profile r.d else 0 := by
  have hiff : freshAge r.age = decide (r.age ≤ 8) := decide_eq_decide.mpr Nat.lt_succ_iff
  simp only [State.stickDemand, h, hiff, decide_eq_true_eq]

/-- The demand of a record: none where one of the four conditions bars it (R5). -/
theorem State.stickDemand_barred {r : StickRecord} (h : s.peers.stick = some r)
    (hbar : 9 ≤ r.age ∨ r.enable = false ∨ s.axis.nodeState = .holdPark ∨ |r.d| ≤ s.start.profile.deadband) :
    s.stickDemand = 0 := by
  rw [State.stickDemand_of_some h]
  rcases hbar with hage | hen | hpark | hband
  · exact if_neg fun hc => by omega
  · exact if_neg fun hc => by simp [hen] at hc
  · exact if_neg fun hc => hc.2.2 hpark
  · rw [shapedDemand_inside hband, ite_self]

theorem State.sourceVelocity_of_none (h : s.start.profile.followSource = none) : s.sourceVelocity = 0 := by
  simp only [State.sourceVelocity, h]

theorem State.sourceVelocity_of_entry {n : Station} {e : PeerEntry} (h : s.start.profile.followSource = some n)
    (he : s.entry n = some e) : s.sourceVelocity = if e.age ≤ 8 then e.velocity else 0 := by
  rw [State.sourceVelocity_of_source h, State.freshEntry_of_some he]
  split <;> rfl

end

/-- Settles O49: the three roundings by `roundHalfAway_nearest` and its symmetry, the stick by its floored share. -/
theorem blendIsOneRoundedQuotient : Obligations.BlendIsOneRoundedQuotient := by
  refine ⟨fun vj vp w sTrim hw hs => ?_, fun s => ⟨State.stickDemand_of_none, fun r hr =>
    ⟨State.stickDemand_barred hr, fun hage hen hpark h0 hD hd hV => ?_⟩, State.sourceVelocity_of_none,
    fun n e => State.sourceVelocity_of_entry, roundHalfAway_nearest (by omega) _, rfl⟩⟩
  · obtain ⟨hnear, haway⟩ := roundHalfAway_nearest (d := 65536) (by omega) (blendNumerator vj ⟨w, sTrim, vp⟩)
    have hN := abs_blendNumerator_le (vj := vj) (vp := vp) hw hs
    refine ⟨hnear, haway, hN, fun hj hp => hN.trans_lt (by omega), ?_⟩
    rw [weightedBlend, blendNumerator_neg, roundHalfAway_neg (by omega), weightedBlend]
  · refine ⟨_, ?_, stickMagnitude_bounds _ (by omega) (by omega) (by omega) (by omega)⟩
    rw [State.stickDemand_of_some hr, if_pos ⟨hage, hen, hpark⟩, shapedDemand_beyond h0 hD]

end Machine
end Sys2Proof
end

section
/-! The limiter chain (2.3 to 2.7, 2.10): each of the stages 1 to 4 gives the greatest velocity it allows in the direction
asked for, so their chain does; stage 5 and the stopping ramp by the signs of the two velocities. -/

namespace Sys2Proof.Machine

/-! ## Stage 5 and the stopping ramp -/

theorem mag_neg (x : Int) : mag (-x) = mag x := by rw [mag_eq_abs, mag_eq_abs, abs_neg]

theorem mag_of_nonneg {x : Int} (h : 0 ≤ x) : mag x = x := by rw [mag_eq_abs, abs_of_nonneg h]

theorem signOf_neg (x : Int) : signOf (-x) = -signOf x := by
  unfold signOf
  rcases lt_trichotomy x 0 with h | rfl | h
  · rw [if_neg (by omega), if_pos (by omega), if_pos h, neg_neg]
  · rfl
  · rw [if_pos (by omega), if_neg (by omega), if_pos h]

theorem signOf_of_pos {x : Int} (h : 0 < x) : signOf x = 1 := by rw [signOf, if_neg (by omega), if_pos h]

theorem signOf_mul_mag (x : Int) : signOf x * mag x = x := by
  rcases lt_trichotomy x 0 with h | rfl | h
  · rw [← neg_neg x, signOf_neg, mag_neg, signOf_of_pos (by omega), mag_of_nonneg (by omega), neg_one_mul]
  · rfl
  · rw [signOf_of_pos h, mag_of_nonneg h.le, one_mul]

section
variable {v w aInc aHigh : Int}

theorem opposite_neg : opposite (-v) (-w) = opposite v w := by
  refine decide_eq_decide.mpr ⟨?_, ?_⟩ <;> omega

/-- Stage 5 treats the two directions alike. -/
theorem accelerate_neg : accelerate (-v) (-w) aInc aHigh = -accelerate v w aInc aHigh := by
  have hsign : signOf (if -v = 0 then -w else -v) = -signOf (if v = 0 then w else v) := by
    rw [← signOf_neg, apply_ite Neg.neg, if_congr neg_eq_zero rfl rfl]
  simp only [accelerate, opposite_neg, mag_neg, hsign, signOf_neg, apply_ite Neg.neg, neg_mul]

theorem accelerate_up (hi : 0 ≤ aInc) (hv : 0 ≤ v) (hw : 0 ≤ w) :
    accelerate v w aInc aHigh = if w ≤ v then min v (w + aInc) else max v (w - aHigh) := by
  have hop : opposite v w = false := decide_eq_false (by omega)
  rw [accelerate, hop, if_neg Bool.false_ne_true, mag_of_nonneg hv, mag_of_nonneg hw]
  rcases hv.eq_or_lt with rfl | hv
  · rcases hw.eq_or_lt with rfl | hw
    · simp [signOf, hi]
    · rw [if_pos rfl, signOf_of_pos hw, one_mul, if_neg hw.not_ge, if_neg hw.not_ge, one_mul]
  · rw [if_neg hv.ne', signOf_of_pos hv, one_mul, one_mul]

theorem accelerate_turn (hv : 0 < v) (hw : w < 0) :
    accelerate v w aInc aHigh = if aHigh < -w then w + aHigh else min v aInc := by
  have hop : opposite v w = true := decide_eq_true (Or.inl ⟨hv, hw⟩)
  obtain ⟨u, rfl⟩ : ∃ u, w = -u := ⟨-w, by omega⟩
  rw [accelerate, hop, if_pos rfl, mag_neg, mag_of_nonneg (by omega : 0 ≤ u), mag_of_nonneg hv.le, signOf_of_pos hv,
    signOf_neg, signOf_of_pos (by omega : 0 < u), neg_neg, one_mul]
  split
  · ring
  · rfl

theorem accelerate_down (hi : 0 ≤ aInc) (hv : v ≤ 0) (hw : w ≤ 0) :
    accelerate v w aInc aHigh = if v ≤ w then max v (w - aInc) else min v (w + aHigh) := by
  have h := accelerate_up (aHigh := aHigh) hi (v := -v) (w := -w) (by omega) (by omega)
  rw [accelerate_neg] at h
  split at h <;> split <;> omega

theorem accelerate_turn_down (hv : v < 0) (hw : 0 < w) :
    accelerate v w aInc aHigh = if aHigh < w then w - aHigh else max v (-aInc) := by
  have h := accelerate_turn (aInc := aInc) (aHigh := aHigh) (v := -v) (w := -w) (by omega) (by omega)
  rw [accelerate_neg, neg_neg] at h
  split at h <;> split <;> omega

/-- The law of stage 5 (R35), for a target that is not negative. -/
theorem accelerate_law_up (hi : 0 ≤ aInc) (hh : 0 ≤ aHigh) (hv : 0 ≤ v) :
    |accelerate v w aInc aHigh| ≤ |w| + aInc ∧ |w| - aHigh ≤ |accelerate v w aInc aHigh| ∧
    |accelerate v w aInc aHigh| ≤ max |v| (|w| - aHigh) := by
  rw [abs_of_nonneg hv]
  rcases le_or_gt 0 w with hw | hw
  · have h := accelerate_up (aHigh := aHigh) hi hv hw
    rw [abs_of_nonneg hw, abs_of_nonneg (a := accelerate v w aInc aHigh) (by split at h <;> omega)]
    split at h <;> omega
  · rw [abs_of_neg hw]
    rcases hv.eq_or_lt with rfl | hv
    · have h := accelerate_down (aHigh := aHigh) hi le_rfl hw.le
      rw [abs_of_nonpos (a := accelerate 0 w aInc aHigh) (by split at h <;> omega)]
      split at h <;> omega
    · have h := accelerate_turn (aInc := aInc) (aHigh := aHigh) hv hw
      split at h
      · rw [h, abs_of_neg (by omega)]; omega
      · rw [h, abs_of_nonneg (by omega)]; omega

theorem accelerate_law (hi : 0 ≤ aInc) (hh : 0 ≤ aHigh) :
    |accelerate v w aInc aHigh| ≤ |w| + aInc ∧ |w| - aHigh ≤ |accelerate v w aInc aHigh| ∧
    |accelerate v w aInc aHigh| ≤ max |v| (|w| - aHigh) := by
  rcases le_total 0 v with hv | hv
  · exact accelerate_law_up hi hh hv
  · have h := accelerate_law_up (v := -v) (w := -w) hi hh (by omega)
    rwa [accelerate_neg, abs_neg, abs_neg, abs_neg] at h

theorem stopRamp_eq {aStop : Int} (h : 0 ≤ aStop) :
    stopRamp aStop w = if 0 ≤ w then max 0 (w - aStop) else min 0 (w + aStop) := by
  have hw := signOf_mul_mag w
  rw [stopRamp, mag_eq_abs] at *
  rcases lt_trichotomy w 0 with hw | rfl | hw
  · rw [abs_of_neg hw, ← neg_neg w, signOf_neg, signOf_of_pos (by omega)]
    split <;> split <;> omega
  · rw [abs_zero, if_pos h, if_pos le_rfl]; omega
  · rw [abs_of_pos hw, signOf_of_pos hw]
    split <;> split <;> omega

end

/-! ## The integer square root -/

theorem isqrtBits_eq {n k r : Nat} (hlo : r * r ≤ n) (hhi : n < (r + 2 ^ k) * (r + 2 ^ k)) :
    isqrtBits n k r = n.sqrt := by
  induction k generalizing r with
  | zero => exact Nat.eq_sqrt.mpr ⟨hlo, hhi⟩
  | succ k ih =>
    rw [isqrtBits]
    split
    · next hfits => exact ih hfits (by rwa [add_assoc, ← two_mul, ← pow_succ'])
    · next hbig => exact ih hlo (Nat.lt_of_not_le hbig)

theorem isqrt_eq_sqrt (n : Nat) : isqrt n = n.sqrt := by
  refine isqrtBits_eq (Nat.zero_le n) ?_
  rw [zero_add, ← pow_add]
  exact Nat.lt_log2_self.trans_le (Nat.pow_le_pow_right (by omega) (by omega))

/-- The bound of the braking envelope allows what stops within the distance (R30). -/
theorem le_envelopeBound {aLow d x : Int} (ha : 0 ≤ aLow) (hd : 0 ≤ d) (hx : 0 ≤ x) :
    x ≤ envelopeBound aLow d ↔ x ≤ d ∧ x * x ≤ 2 * aLow * d := by
  obtain ⟨x, rfl⟩ := Int.eq_ofNat_of_zero_le hx
  obtain ⟨n, hn⟩ := Int.eq_ofNat_of_zero_le (mul_nonneg (mul_nonneg two_pos.le ha) hd)
  rw [envelopeBound, le_min_iff, and_comm, hn, Int.toNat_natCast, isqrt_eq_sqrt, Int.ofNat_le, Nat.le_sqrt]
  norm_cast

/-! ## The greatest velocity allowed -/

/-- `stage` gives the greatest velocity not beyond the one asked for, in its direction, that `ok` allows. -/
def Greatest (stage : Int → Int) (ok : Int → Prop) : Prop :=
  ∀ v, ok (stage v) ∧ (0 ≤ v → 0 ≤ stage v ∧ stage v ≤ v ∧ ∀ x, 0 ≤ x → x ≤ v → ok x → x ≤ stage v) ∧
    (v ≤ 0 → v ≤ stage v ∧ stage v ≤ 0 ∧ ∀ x, v ≤ x → x ≤ 0 → ok x → stage v ≤ x)

/-- What allows a velocity allows every one from 0 to it. -/
def Inward (ok : Int → Prop) : Prop :=
  ∀ x y, ok x → (0 ≤ y ∧ y ≤ x ∨ x ≤ y ∧ y ≤ 0) → ok y

theorem Greatest.chain {f g : Int → Int} {okF okG : Int → Prop} (hf : Greatest f okF) (hin : Inward okF)
    (hg : Greatest g okG) : Greatest (fun v => g (f v)) (fun x => okF x ∧ okG x) := by
  intro v
  obtain ⟨fok, fup, fdown⟩ := hf v
  obtain ⟨gok, gup, gdown⟩ := hg (f v)
  refine ⟨⟨hin _ _ fok ?_, gok⟩, fun hv => ?_, fun hv => ?_⟩
  · rcases le_total 0 (f v) with h | h
    · exact Or.inl ⟨(gup h).1, (gup h).2.1⟩
    · exact Or.inr ⟨(gdown h).1, (gdown h).2.1⟩
  · obtain ⟨f0, fle, fmost⟩ := fup hv
    obtain ⟨g0, gle, gmost⟩ := gup f0
    exact ⟨g0, gle.trans fle, fun x x0 xv hx => gmost x x0 (fmost x x0 xv hx.1) hx.2⟩
  · obtain ⟨fge, f0, fmost⟩ := fdown hv
    obtain ⟨gge, g0, gmost⟩ := gdown f0
    exact ⟨fge.trans gge, g0, fun x xv x0 hx => gmost x (fmost x xv x0 hx.1) x0 hx.2⟩

/-- What stage 1 allows (R26). -/
def switchAllows (pos neg : Bool) (x : Int) : Prop := (0 < x → pos = false) ∧ (x < 0 → neg = false)

theorem switchAllows_inward (pos neg : Bool) : Inward (switchAllows pos neg) := fun _ _ hx hy =>
  ⟨fun h => hx.1 (by omega), fun h => hx.2 (by omega)⟩

theorem interlockClamp_greatest (pos neg : Bool) : Greatest (interlockClamp pos neg) (switchAllows pos neg) := by
  intro v
  unfold interlockClamp switchAllows
  split
  · next h => exact ⟨⟨nofun, nofun⟩, fun _ => ⟨le_rfl, h.2.le, fun x h0 _ hx => not_lt.mp fun hp => by simp [hx.1 hp] at h⟩,
      fun hv => absurd h.2 (by omega)⟩
  split
  · next h => exact ⟨⟨nofun, nofun⟩, fun hv => absurd h.2 (by omega),
      fun _ => ⟨h.2.le, le_rfl, fun x _ h0 hx => not_lt.mp fun hp => by simp [hx.2 hp] at h⟩⟩
  · next hp hn =>
    exact ⟨⟨fun h => by simpa [h] using hp, fun h => by simpa [h] using hn⟩,
      fun h => ⟨h, le_rfl, fun x _ hx _ => hx⟩, fun h => ⟨le_rfl, h, fun x hx _ _ => hx⟩⟩

theorem abs_le_inward (b : Int) : Inward (fun x => |x| ≤ b) := by
  intro x y hx hy
  rw [abs_le] at hx ⊢
  omega

/-- What stage 2, or 3 with the tip's limit, allows (R27, R29). -/
theorem boundMag_greatest {b : Int} (hb : 0 ≤ b) : Greatest (boundMag b) (fun x => |x| ≤ b) := by
  intro v
  simp only [boundMag, clamp_eq (by omega : -b ≤ b), abs_le]
  exact ⟨by omega, fun _ => ⟨by omega, by omega, fun x _ _ _ => by omega⟩,
    fun _ => ⟨by omega, by omega, fun x _ _ _ => by omega⟩⟩

/-- What stage 4 allows on the way to a limit (R30). -/
def stopsWithin (aLow d x : Int) : Prop := x ≤ d ∧ x * x ≤ 2 * aLow * d

/-- What stage 4 allows (R30). -/
def envelopeAllows (p : Profile) (S x : Int) : Prop :=
  (0 < x → stopsWithin p.aLow (p.pMax * 256 - S) x) ∧ (x < 0 → stopsWithin p.aLow (S - p.pMin * 256) (-x))

theorem stopsWithin_smaller {aLow d x y : Int} (h : stopsWithin aLow d x) (hy : 0 ≤ y) (hyx : y ≤ x) :
    stopsWithin aLow d y :=
  ⟨hyx.trans h.1, (mul_le_mul hyx hyx hy (hy.trans hyx)).trans h.2⟩

theorem envelopeAllows_inward (p : Profile) (S : Int) : Inward (envelopeAllows p S) := fun x y hx hy =>
  ⟨fun h => stopsWithin_smaller (hx.1 (by omega)) h.le (by omega),
    fun h => stopsWithin_smaller (hx.2 (by omega)) (by omega) (by omega)⟩

/-- Stage 4 in one direction: the part of the velocity that stops within the distance, if there is any. -/
def envelopeAhead (aLow d v : Int) : Int := if d ≤ 0 then 0 else min v (envelopeBound aLow d)

theorem envelopeAhead_spec {aLow d v : Int} (ha : 0 ≤ aLow) (hv : 0 ≤ v) :
    0 ≤ envelopeAhead aLow d v ∧ envelopeAhead aLow d v ≤ v ∧
    (0 < envelopeAhead aLow d v → stopsWithin aLow d (envelopeAhead aLow d v)) ∧
    ∀ x, 0 ≤ x → x ≤ v → (0 < x → stopsWithin aLow d x) → x ≤ envelopeAhead aLow d v := by
  unfold envelopeAhead
  split
  · next hd =>
    exact ⟨le_rfl, hv, nofun, fun x hx _ hfit => not_lt.mp fun hpos => by have := (hfit hpos).1; omega⟩
  · next hd =>
    have hb := envelopeBound_nonneg (aLow := aLow) (d := d) (by omega)
    refine ⟨le_min hv hb, min_le_left _ _, fun hpos => (le_envelopeBound ha (by omega) hpos.le).mp (min_le_right _ _),
      fun x hx hxv hfit => le_min hxv ?_⟩
    rcases hx.eq_or_lt with rfl | hpos
    · exact hb
    · exact (le_envelopeBound ha (by omega) hx).mpr (hfit hpos)

theorem envelopeAhead_zero {aLow d : Int} : envelopeAhead aLow d 0 = 0 := by
  unfold envelopeAhead
  split
  · rfl
  · exact min_eq_left (envelopeBound_nonneg (by omega))

section
variable {p : Profile} {S v : Int}

theorem envelope_up (hv : 0 ≤ v) : envelope p S v = envelopeAhead p.aLow (p.pMax * 256 - S) v := by
  rcases hv.eq_or_lt with rfl | hpos
  · rw [envelopeAhead_zero]; rfl
  · rw [envelope, if_pos hpos]; rfl

theorem envelope_down (hv : v ≤ 0) : envelope p S v = -envelopeAhead p.aLow (S - p.pMin * 256) (-v) := by
  rcases hv.eq_or_lt with rfl | hneg
  · rw [neg_zero, envelopeAhead_zero]; rfl
  · rw [envelope, if_neg hneg.not_gt, if_pos hneg, envelopeAhead, apply_ite Neg.neg]; rfl

theorem envelope_greatest (S : Int) (ha : 0 ≤ p.aLow) : Greatest (envelope p S) (envelopeAllows p S) := by
  intro v
  have up (hv : 0 ≤ v) := envelopeAhead_spec (d := p.pMax * 256 - S) ha hv
  have down (hv : v ≤ 0) := envelopeAhead_spec (d := S - p.pMin * 256) (v := -v) ha (by omega)
  refine ⟨?_, fun hv => ?_, fun hv => ?_⟩
  · rcases le_total 0 v with hv | hv
    · obtain ⟨h0, -, hfit, -⟩ := up hv
      rw [envelope_up hv]
      exact ⟨hfit, fun h => absurd h (by omega)⟩
    · obtain ⟨h0, -, hfit, -⟩ := down hv
      rw [envelope_down hv]
      exact ⟨fun h => absurd h (by omega), fun h => by rw [neg_neg]; exact hfit (by omega)⟩
  · obtain ⟨h0, hle, -, hmost⟩ := up hv
    rw [envelope_up hv]
    exact ⟨h0, hle, fun x hx hxv hfit => hmost x hx hxv hfit.1⟩
  · obtain ⟨h0, hle, -, hmost⟩ := down hv
    rw [envelope_down hv]
    refine ⟨by omega, by omega, fun x hxv hx hfit => ?_⟩
    have := hmost (-x) (by omega) (by omega) fun h => hfit.2 (by omega)
    omega

end

/-! ## The tip-speed limit -/

section
variable {s : State}

theorem State.extension_of_none {n : Station} (he : s.entry n = none) : s.extension n = s.start.profile.lMax := by
  simp only [State.extension, State.freshEntry_of_none he]

/-- The extension of an entry (R28): a FRESH one's setpoint, else the longest. -/
theorem State.extension_of_some {n : Station} {e : PeerEntry} (h : 0 ≤ s.start.profile.lMax)
    (he : s.entry n = some e) :
    s.extension n = if e.age ≤ 8 then max 0 (min s.start.profile.lMax e.setpoint) else s.start.profile.lMax := by
  rw [State.extension, State.freshEntry_of_some he]
  by_cases hage : e.age ≤ 8
  · rw [if_pos hage, if_pos hage]; exact clamp_eq h _
  · rw [if_neg hage, if_neg hage]

/-- What stage 3 allows: within the tip speed at the extension found (R28, R29). -/
def State.tipFits (s : State) (x : Int) : Prop :=
  ∀ n, s.start.profile.role.hasTip = true → s.start.profile.extSource = some n →
    |x| * (s.start.profile.r0 + s.extension n) ≤ s.start.profile.tTip * Config.kTip

variable (hl : 0 ≤ s.start.profile.lMax) (hr : 1 ≤ s.start.profile.r0)
include hl hr

theorem State.radius_pos (n : Station) : 0 < s.start.profile.r0 + s.extension n := by
  have := State.extension_nonneg hl n
  omega

theorem State.tipFits_inward : Inward s.tipFits := by
  intro x y hx hy n ht hn
  refine le_trans (mul_le_mul_of_nonneg_right ?_ (State.radius_pos hl hr n).le) (hx n ht hn)
  rcases hy with ⟨h0, h1⟩ | ⟨h1, h0⟩
  · rw [abs_of_nonneg h0, abs_of_nonneg (h0.trans h1)]; exact h1
  · rw [abs_of_nonpos h0, abs_of_nonpos (h1.trans h0)]; omega

/-- The tip's limit is the greatest magnitude within the tip speed. -/
theorem State.tipFits_iff {n : Station} (ht : s.start.profile.role.hasTip = true)
    (hn : s.start.profile.extSource = some n) (x : Int) :
    s.tipFits x ↔ |x| ≤ tipLimit s.start.profile (s.extension n) := by
  rw [tipLimit, Int.le_ediv_iff_mul_le (State.radius_pos hl hr n)]
  refine ⟨fun h => h n ht hn, fun h m _ hm => ?_⟩
  obtain rfl := Option.some.inj (hn.symm.trans hm)
  exact h

theorem State.tipBound_greatest (htip : 0 ≤ s.start.profile.tTip) : Greatest s.tipBound s.tipFits := by
  have free (h : ∀ x, s.tipFits x) (he : ∀ v, s.tipBound v = v) : Greatest s.tipBound s.tipFits := fun v => by
    rw [he]
    exact ⟨h v, fun hv => ⟨hv, le_rfl, fun x _ hx _ => hx⟩, fun hv => ⟨le_rfl, hv, fun x hx _ _ => hx⟩⟩
  cases hn : s.start.profile.extSource with
  | none => exact free (fun x n _ hm => by simp [hn] at hm) fun v => by simp only [State.tipBound, hn]
  | some n =>
    cases ht : s.start.profile.role.hasTip with
    | false =>
      exact free (fun x n h => by simp [ht] at h) fun v => by simp only [State.tipBound, hn, ht, Bool.false_eq_true, if_false]
    | true =>
      have hf : s.tipBound = boundMag (tipLimit s.start.profile (s.extension n)) := by
        funext v; simp only [State.tipBound, hn, ht, if_true]
      have hok : s.tipFits = fun x => |x| ≤ tipLimit s.start.profile (s.extension n) :=
        funext fun x => propext (State.tipFits_iff hl hr ht hn x)
      rw [hf, hok]
      exact boundMag_greatest (Int.ediv_nonneg (mul_nonneg htip (by decide)) (State.radius_pos hl hr n).le)

/-- Stages 1 to 4 in a chain (2.3 to 2.6). -/
theorem State.target_greatest (hv : 0 ≤ s.start.profile.vAxisMax) (ha : 0 ≤ s.start.profile.aLow)
    (htip : 0 ≤ s.start.profile.tTip) :
    Greatest s.target fun x =>
      switchAllows s.drive.lines.limitPos.active s.drive.lines.limitNeg.active x ∧
      |x| ≤ s.start.profile.vAxisMax ∧ s.tipFits x ∧ envelopeAllows s.start.profile s.limiter.S x :=
  (interlockClamp_greatest _ _).chain (switchAllows_inward _ _) <|
    (boundMag_greatest hv).chain (abs_le_inward _) <|
      (State.tipBound_greatest hl hr htip).chain (State.tipFits_inward hl hr) (envelope_greatest _ ha)

end

/-- Settles O50: the law of stage 5 by the signs of its two velocities, the target by the chain of its stages. -/
theorem accelerationLaw : Obligations.AccelerationLaw := by
  refine ⟨fun v w aInc aHigh hi hh => ?_, fun _ _ => stopRamp_eq, fun s vReq => ?_⟩
  · obtain ⟨h1, h2, h3⟩ := accelerate_law (v := v) (w := w) hi hh
    exact ⟨h1, h2, h3, accelerate_up hi, accelerate_down hi, accelerate_turn, accelerate_turn_down⟩
  · intro p v up down tipFits allowed hv ha hl hr htip
    have hallowed : ∀ x, allowed x ↔
        switchAllows s.drive.lines.limitPos.active s.drive.lines.limitNeg.active x ∧
        |x| ≤ p.vAxisMax ∧ s.tipFits x ∧ envelopeAllows p s.limiter.S x := by
      intro x
      have htip : tipFits x ↔ s.tipFits x := by
        refine forall_congr' fun n => forall_congr' fun _ => forall_congr' fun _ => ?_
        cases he : s.entry n with
        | none => rw [State.extension_of_none he]; rfl
        | some e => rw [State.extension_of_some hl he]; rfl
      have henv : envelopeAllows p s.limiter.S x ↔
          (0 < x → x ≤ up ∧ x * x ≤ 2 * p.aLow * up) ∧ (x < 0 → -x ≤ down ∧ x * x ≤ 2 * p.aLow * down) := by
        rw [envelopeAllows, stopsWithin, stopsWithin, neg_mul_neg]
      rw [← htip, henv, switchAllows]
      exact ⟨fun ⟨hb, ht, hp, hn⟩ => ⟨⟨fun h => (hp h).1, fun h => (hn h).1⟩, hb, ht, fun h => (hp h).2, fun h => (hn h).2⟩,
        fun ⟨⟨hp, hn⟩, hb, ht, hep, hen⟩ => ⟨hb, ht, fun h => ⟨hp h, hep h⟩, fun h => ⟨hn h, hen h⟩⟩⟩
    have h := State.target_greatest hl hr hv ha htip vReq
    simp only [hallowed]
    exact h

end Sys2Proof.Machine
end

section
/-! The move engine at a period expiry, place by place and part by part: what its countdowns and the parts of the playback
step do to a context of each phase. -/

namespace Sys2Proof.Machine

/-! ## The countdowns of a place (R78, R81, R84) -/

section
variable {s : State} {p : Place} {c : Context} (h : s.moves.at p = some c)
include h

theorem State.countPlace_fired (hf : c.phase.fired = true) : s.countPlace p = s := by
  cases hph : c.phase <;> simp_all [State.countPlace, Phase.fired]

theorem State.countPlace_gather (hph : c.phase = .gather) (hcd : c.gatherCd ≤ 1) :
    s.countPlace p = s.gatherExpiry p c := by
  simp only [State.countPlace, h, hph, if_pos hcd]

theorem State.countPlace_armed (hph : c.phase = .armed) (hcd : c.armedCd ≤ 1) :
    s.countPlace p = s.abandon p .armExpired := by
  simp only [State.countPlace, h, hph, if_pos hcd]

end

section
variable {s : State} {c : Context} (hph : c.phase = .posted) (hcd : c.postCd = 0)
include hph hcd

theorem State.countPlace_fire (h : s.moves.active = some c) : s.countPlace .active = s.withActive (some c.fire) := by
  have hat : s.moves.at .active = some c := h
  simp only [State.countPlace, hat, hph, hcd, ne_eq, not_true_eq_false, if_false, State.putContext_active]

theorem State.countPlace_due (h : s.moves.pending = some c) :
    s.countPlace .pending = { s with moves := { s.moves with pending := some { c with due := true } } } := by
  have hat : s.moves.at .pending = some c := h
  simp only [State.countPlace, hat, hph, hcd, ne_eq, not_true_eq_false, if_false]
  rfl

end

theorem State.countdowns_alone {s t : State} (h : s.countPlace .active = t) (hp : t.moves.pending = none) :
    s.countdowns = t := by
  rw [State.countdowns, h, State.countPlace_pending_empty hp]

theorem State.countdowns_beside {s : State} {a : Context} (ha : s.moves.active = some a) (hf : a.phase.fired = true) :
    s.countdowns = s.countPlace .pending := by
  rw [State.countdowns, State.countPlace_fired (p := .active) ha hf]

/-! ## The end of a gather (R78, R89) -/

section
variable {s : State} {c : Context}

theorem State.gatherExpiry_member (hm : c.parts.has s.start.station = true) :
    s.gatherExpiry .active c =
      s.withActive (some { c with phase := .armed, gatherCd := 0, armedCd := Config.armExpiry }) := by
  rw [State.gatherExpiry, if_pos hm]; rfl

/-- A PENDING context is held to the participant set of the ACTIVE one (R89). -/
theorem State.gatherExpiry_pending {a : Context} (ha : s.moves.active = some a)
    (hm : c.parts.has s.start.station = true) :
    s.gatherExpiry .pending c =
      (let t := s.putContext .pending (some { c with phase := .armed, gatherCd := 0, armedCd := Config.armExpiry })
       if a.parts = c.parts then t else t.abandonPending .spliceSet) := by
  simp only [State.gatherExpiry, if_pos hm, ha, Option.any_some, beq_iff_eq]

/-- A node that is no member tells the others only where its JOIN went out. -/
theorem State.gatherExpiry_late (hm : c.parts.has s.start.station = false) (p : Place) :
    s.gatherExpiry p c =
      if c.ownJoin = some .sent then (s.abandon p .joinLate).handCancel c.moveId else s.abandon p .joinLate := by
  rw [State.gatherExpiry, if_neg (by simp [hm])]
  cases hj : c.ownJoin with
  | none => rfl
  | some j => cases j <;> rfl

end

/-! ## The parts of the playback step -/

namespace Context
variable (c : Context)

theorem gapPart_none {c : Context} (h : c.gap = 0) : c.gapPart = c := if_pos h

theorem ratePart_holding {c : Context} (h : c.phase = .holding) :
    c.ratePart = { c with r := c.r - 4, phase := if c.r ≤ 4 then .suspended else .holding } := by
  simp only [ratePart, h]; rfl

theorem ratePart_resuming {c : Context} (h : c.phase = .resuming) :
    c.ratePart = { c with r := min 256 (c.r + 4), phase := if 256 ≤ c.r + 4 then .running else .resuming } := by
  simp only [ratePart, h]; rfl

/-- Outside the ramps and the resume gap parts 2 and 3 change nothing. -/
theorem gapPart_ratePart {c : Context} (hgap : c.gap = 0)
    (h : c.phase = .running ∨ c.phase = .suspended ∨ c.phase = .finished ∨ c.phase = .releasing) :
    c.gapPart.ratePart = c := by
  rw [gapPart_none hgap]
  obtain h | h | h | h := h <;> simp only [ratePart, h]

/-- The weight is the one thing part 7 changes, with its two counts. -/
theorem weightPart_frame : c.weightPart = { c with
    w := c.weightPart.w, fadeIn := c.weightPart.fadeIn, fadeOut := c.weightPart.fadeOut } := by
  unfold weightPart
  split <;> rfl

@[simp] theorem weightPart_moveId : c.weightPart.moveId = c.moveId := (congrArg Context.moveId c.weightPart_frame :)
@[simp] theorem weightPart_preset : c.weightPart.preset = c.preset := (congrArg Context.preset c.weightPart_frame :)
@[simp] theorem weightPart_parts : c.weightPart.parts = c.parts := (congrArg Context.parts c.weightPart_frame :)
@[simp] theorem weightPart_releaseAtEnd : c.weightPart.releaseAtEnd = c.releaseAtEnd := (congrArg Context.releaseAtEnd c.weightPart_frame :)
@[simp] theorem weightPart_t : c.weightPart.t = c.t := (congrArg Context.t c.weightPart_frame :)
@[simp] theorem weightPart_k : c.weightPart.k = c.k := (congrArg Context.k c.weightPart_frame :)
@[simp] theorem weightPart_r : c.weightPart.r = c.r := (congrArg Context.r c.weightPart_frame :)
@[simp] theorem weightPart_lam : c.weightPart.lam = c.lam := (congrArg Context.lam c.weightPart_frame :)
@[simp] theorem weightPart_dwell : c.weightPart.dwell = c.dwell := (congrArg Context.dwell c.weightPart_frame :)
@[simp] theorem weightPart_gap : c.weightPart.gap = c.gap := (congrArg Context.gap c.weightPart_frame :)
@[simp] theorem weightPart_deferred : c.weightPart.deferred = c.deferred := (congrArg Context.deferred c.weightPart_frame :)

theorem weightPart_held {c : Context} (h : c.phase = .holding ∨ c.phase = .suspended ∨ c.phase = .resuming) :
    c.weightPart = c := by
  obtain h | h | h := h <;> simp only [weightPart, h]

theorem weightPart_playing {c : Context} (h : c.phase = .running ∨ c.phase = .finished) :
    c.weightPart = { c with
      fadeIn := min (c.fadeIn + 1) c.preset.fIn
      w := fadeInWeight c.preset.fIn c.wFloor (min (c.fadeIn + 1) c.preset.fIn) } := by
  obtain h | h := h <;> simp only [weightPart, h]

theorem weightPart_releasing {c : Context} (h : c.phase = .releasing) :
    c.weightPart = { c with
      fadeOut := min (c.fadeOut + 1) c.preset.fOut
      w := fadeOutWeight c.preset.fOut c.w0 (min (c.fadeOut + 1) c.preset.fOut) } := by
  simp only [weightPart, h]

/-- An advance short of the total moves the timeline alone (R94). -/
theorem moved_short {c : Context} {b : Bool} {t : Nat} (ht : c.advanced b = t) (h : t < c.preset.total) :
    c.moved b = { c with t := t, k := c.preset.segIndex t } := by
  rw [moved, ht, if_neg h.ne]

/-- An advance to the total finishes the playback (R97). -/
theorem moved_full {c : Context} {b : Bool} (ht : c.advanced b = c.preset.total) :
    c.moved b = { c with t := c.preset.total, k := c.preset.segIndex c.preset.total
                         phase := .finished, dwell := c.preset.dwell, deferred := false, gap := 0 } := by
  rw [moved, ht, if_pos rfl]

/-- What is left of a context that its step does not advance and whose dwell does not run (R92, parts 5 to 7). -/
theorem stepped_still {c : Context} (ha : Phase.advances c.phase = false) (hf : c.phase ≠ .finished)
    (hr : c.phase ≠ .releasing) : c.stepped = some c.weightPart := by
  simp only [stepped, ha, Bool.false_eq_true, if_false, beq_false_of_ne hf, weightPart_phase, hr, false_and]

/-- What is left of a context that its step advances. -/
theorem stepped_advanced {c : Context} (ha : Phase.advances c.phase = true) :
    c.stepped = some (c.moved false).weightPart := by
  have hf : (c.phase == .finished) = false := by cases hph : c.phase <;> simp_all [Phase.advances]
  have hr : (c.moved false).phase ≠ .releasing := by
    obtain h | h := c.moved_phase false <;> rw [h] <;> cases hph : c.phase <;> simp_all [Phase.advances]
  simp only [stepped, ha, if_true, hf, Bool.false_eq_true, if_false, weightPart_phase, hr, false_and]

/-- The fade-out at its last count discards the context (R99). -/
theorem stepped_faded {c : Context} (h : c.phase = .releasing) (hend : c.preset.fOut ≤ c.fadeOut + 1) :
    c.stepped = none := by
  have hw : c.weightPart.w = 0 := by
    rw [weightPart_releasing h]
    dsimp only
    rw [min_eq_right hend, fadeOutWeight, Nat.sub_self, Nat.mul_zero, Nat.zero_div, ite_self]
  have ha : Phase.advances c.phase = false := by rw [h]; rfl
  have hf : (c.phase == .finished) = false := by rw [h]; rfl
  simp only [stepped, ha, hf, Bool.false_eq_true, if_false]
  exact if_pos ⟨(weightPart_phase c).trans h, hw⟩

end Context

/-- The first fade-out step from full weight (R99). -/
theorem firstFade_pos {fOut : Nat} (h : 2 ≤ fOut) : 0 < 256 * (fOut - 1) / fOut :=
  Nat.div_pos (by omega) (by omega)

/-- A released context after its first fade-out step from full weight (R99). -/
theorem Context.release_faded {c : Context} (hw : c.w = 256) (h : 2 ≤ c.preset.fOut) :
    c.release.weightPart = { c with
      phase := .releasing, w0 := 256, fadeOut := 1, w := 256 * (c.preset.fOut - 1) / c.preset.fOut } := by
  rw [Context.weightPart_releasing rfl]
  have hn : min (0 + 1) c.preset.fOut = 1 := by omega
  simp only [Context.release, hw, hn, fadeOutWeight, if_neg (by omega : ¬c.preset.fOut = 0)]

/-! ## Levelling (R105, R106) -/

theorem levelFactor_le (t : Nat) (ests : Option (List Nat)) : levelFactor t ests = 252 ∨ levelFactor t ests = 256 := by
  cases ests with
  | none => exact Or.inr rfl
  | some es => simp only [levelFactor, Config.levelRate]; split <;> simp

section
variable {s : State} {c : Context}

/-- A context that is not in MP_RUNNING is neither levelled nor checked for drift. -/
theorem State.estimates_of_not_running (h : c.phase ≠ .running) : s.estimates c = none :=
  if_neg fun hc => h hc.2

theorem State.drifted_of_not_running (h : c.phase ≠ .running) (t : Nat) : drifted t (s.estimates c) = false := by
  rw [State.estimates_of_not_running h]; rfl

theorem State.levelFactor_of_not_running (h : c.phase ≠ .running) (t : Nat) :
    levelFactor t (s.estimates c) = 256 := by
  rw [State.estimates_of_not_running h]; rfl

end

/-! ## The hand-over (R3, R114) -/

theorem handOverOf_playing {d : Context} (hf : d.phase.fired = true) (hr : d.phase ≠ .releasing) (v : Int) :
    handOverOf (some d) v = ⟨d.w, d.preset.sTrim, v⟩ := by
  simp only [handOverOf, hf, if_true, if_neg hr]

theorem handOverOf_releasing {d : Context} (h : d.phase = .releasing) (v : Int) :
    handOverOf (some d) v = ⟨d.w, d.preset.sTrim, 0⟩ := by
  simp only [handOverOf, h, Phase.fired, if_true]

theorem handOverOf_unfired {d : Context} (h : d.phase.fired = false) (v : Int) :
    handOverOf (some d) v = ⟨0, d.preset.sTrim, 0⟩ := by
  simp only [handOverOf, h, Bool.false_eq_true, if_false]

theorem State.withActive_handOver (s : State) (x : Option Context) (v : Int) :
    (s.withActive x).giveHandOver v =
      { s with moves := { s.moves with active := x, handOver := handOverOf x v } } := rfl

/-! ## The step beside a PENDING context -/

theorem State.splicePart_idle {s : State} (h : s.moves.splices = false) : s.splicePart = s := by
  rw [State.splicePart, h, if_neg Bool.false_ne_true]

/-- The playback step of a fired context that is not spliced and has not drifted, from the context `f` after
levelling; a PENDING one may stand beside it. -/
theorem State.playbackStep_unspliced {s : State} {c e f : Context} (ha : s.moves.active = some c)
    (hs : s.moves.splices = false) (hf : c.phase.fired = true) (he : c.gapPart.ratePart = e)
    (hd : drifted e.t (s.estimates e) = false) (hl : { e with lam := levelFactor e.t (s.estimates e) } = f) :
    s.playbackStep = ((s.withActive (some f)).advancePart.1.weightAndRelease (f.phase == .finished)).giveHandOver
      (s.withActive (some f)).advancePart.2 := by
  have h1 : ((s.splicePart.mapActive Context.gapPart).mapActive Context.ratePart).levelPart = s.withActive (some f) := by
    rw [State.splicePart_idle hs, State.mapActive_eq, State.mapActive_eq]
    simp only [ha, Option.map_some, State.withActive_active, State.withActive_twice, he]
    rw [State.levelPart_near (c := e) rfl (by rw [State.estimates_withActive]; exact hd), State.estimates_withActive, hl]
    rfl
  simp only [State.playbackStep, ha, Option.any_some, hf, if_true, h1]
  rfl

/-! ## The reaction of the move engine -/

/-- A reaction that leaves no fired context makes a hand-over and nothing else beyond its countdowns. -/
theorem State.moveReaction_unfired {s t : State} (h : s.countdowns = t)
    (hf : t.moves.active.any (·.phase.fired) = false) : s.moveReaction = t.giveHandOver 0 := by
  rw [State.moveReaction, h, State.playbackStep, hf, if_neg Bool.false_ne_true]

section
variable {s : State} {c e f : Context} (ha : s.moves.active = some c) (hp : s.moves.pending = none)
  (hf : c.phase.fired = true)
include ha hp hf

theorem State.countdowns_fired : s.countdowns = s :=
  State.countdowns_alone (State.countPlace_fired (p := .active) ha hf) hp

theorem State.beforePlayback_fired : s.beforePlayback = some c := by
  rw [State.beforePlayback, State.countdowns_fired ha hp hf, State.splicePart_alone hp, ha]

/-- The reaction of a lone fired context that has not drifted, from the context `f` after levelling. -/
theorem State.moveReaction_fired (he : c.gapPart.ratePart = e) (hd : drifted e.t (s.estimates e) = false)
    (hl : { e with lam := levelFactor e.t (s.estimates e) } = f) :
    s.moveReaction = { s with moves := { s.moves with
      active := f.stepped
      handOver := handOverOf f.stepped (if Phase.advances f.phase then f.stepContribution false else 0) } } := by
  rw [State.moveReaction, State.countdowns_fired ha hp hf, State.playbackStep_alone ha hp hf he hd hl,
    State.withActive_handOver]

/-- The same for a context whose phase after its rate step is not MP_RUNNING, and which does not advance. -/
theorem State.moveReaction_still (he : c.gapPart.ratePart = e) (hv : Phase.advances e.phase = false) :
    s.moveReaction = { s with moves := { s.moves with
      active := ({ e with lam := 256 } : Context).stepped
      handOver := handOverOf ({ e with lam := 256 } : Context).stepped 0 } } := by
  have hne : e.phase ≠ .running := fun h => by simp [h, Phase.advances] at hv
  rw [State.moveReaction_fired ha hp hf he (State.drifted_of_not_running hne _)
    (congrArg (fun x => { e with lam := x }) (State.levelFactor_of_not_running hne _))]
  simp only [hv, Bool.false_eq_true, if_false]

/-- The same for a context that advances to `g`: the step's contribution is the path between the two timelines (R96). -/
theorem State.moveReaction_advances {g : Context} (he : c.gapPart.ratePart = e)
    (hd : drifted e.t (s.estimates e) = false) (hl : { e with lam := levelFactor e.t (s.estimates e) } = f)
    (hv : Phase.advances e.phase = true) (hg : f.moved false = g) :
    s.moveReaction = { s with moves := { s.moves with
      active := some g.weightPart
      handOver := ⟨g.weightPart.w, g.preset.sTrim,
        f.preset.contribution f.k f.t g.weightPart.k g.weightPart.t⟩ } } := by
  have hvf : Phase.advances f.phase = true := by rw [← hl]; exact hv
  have hph : g.weightPart.phase.fired = true ∧ g.weightPart.phase ≠ .releasing := by
    rw [Context.weightPart_phase, ← hg]
    obtain h | h := f.moved_phase false <;> rw [h] <;> cases hph : f.phase <;> simp_all [Phase.advances, Phase.fired]
  rw [State.moveReaction_fired ha hp hf he hd hl, Context.stepped_advanced hvf, if_pos hvf, hg,
    handOverOf_playing hph.1 hph.2, Context.weightPart_preset, Context.weightPart_k, Context.weightPart_t,
    Context.stepContribution, hg]

end

end Sys2Proof.Machine
end

section
/-! The timed events of a lone context (5.4, 5.5, 6.2 to 6.6): each is the reaction of the move engine, computed by the
parts of the playback step. -/

namespace Sys2Proof.Machine

theorem Context.advanced_full (c : Context) (hr : c.r = 256) : c.advanced false = min (c.t + c.lam) c.preset.total := by
  have h : 256 * c.lam / 256 = c.lam := Nat.mul_div_cancel_left _ (by decide)
  simp only [Context.advanced, hr, h, Bool.false_eq_true, if_false]

theorem Context.advanced_level (c : Context) (hl : c.lam = 256) : c.advanced false = min (c.t + c.r) c.preset.total := by
  have h : c.r * 256 / 256 = c.r := Nat.mul_div_cancel _ (by decide)
  simp only [Context.advanced, hl, h, Bool.false_eq_true, if_false]

/-- At the total the path is the whole change of the preset. -/
theorem Preset.path_total {p : Preset} (h : p.wellFormed = true) :
    p.path (p.segIndex p.total) p.total = p.posAt (p.keys.length - 1) - p.posAt 0 :=
  Preset.path_bound h (by have := (Preset.wellFormed_keys h).1; omega)

theorem Context.dwellPart_release {c : Context} (hauto : c.preset.autoRelease = true ∨ c.releaseAtEnd = true)
    (hd : c.dwell ≤ 1) (hw : c.w = 256) : c.dwellPart = ({ c with dwell := 0 } : Context).release := by
  have h0 : c.dwell - 1 = 0 := by omega
  rw [Context.dwellPart, h0, if_pos ⟨hauto, rfl, hw⟩]

/-- The dwell's end of a finished context at full weight: released, with its first fade-out step (R107). -/
theorem Context.stepped_dwelt {c : Context} (hph : c.phase = .finished)
    (hauto : c.preset.autoRelease = true ∨ c.releaseAtEnd = true) (hd : c.dwell ≤ 1) (hw : c.w = 256)
    (h : 2 ≤ c.preset.fOut) :
    c.stepped = some { c with phase := .releasing, dwell := 0, w0 := 256, fadeOut := 1
                              w := 256 * (c.preset.fOut - 1) / c.preset.fOut } := by
  have hv : Phase.advances c.phase = false := by rw [hph]; rfl
  have hfin : (c.phase == .finished) = true := by rw [hph]; rfl
  have hrel := Context.release_faded (c := { c with dwell := 0 }) hw h
  have hpos := firstFade_pos h
  simp only [Context.stepped, hv, hfin, if_true, Bool.false_eq_true, if_false, Context.dwellPart_release hauto hd hw, hrel]
  rw [if_neg fun hc => hpos.ne' hc.2]

/-- Settles O15: each end is the step of the context's phase. -/
theorem playbackFinishesAtTheTotal : Obligations.PlaybackFinishesAtTheTotal := by
  intro s c ht ha hp hgap
  refine ⟨fun hph hr hwf hnear hlt hfull => ?_, fun hph hd hw hauto hout => ?_, fun hph hend => ?_⟩
  · have hf : c.phase.fired = true := by rw [hph]; rfl
    have he := Context.gapPart_ratePart hgap (.inl hph)
    have hmoved := Context.moved_full (c := { c with lam := levelFactor c.t (s.estimates c) }) (b := false)
      (by rw [Context.advanced_full _ (by exact hr)]; exact min_eq_right hfull)
    have hx := State.moveReaction_advances ha hp hf he hnear rfl (by rw [hph]; rfl) hmoved
    have hex : exec .playbackFinish s = .next s.moveReaction := by
      refine whenAble_of ?_ s _
      rw [ht, State.beforePlayback_fired ha hp hf, hx]
      simp [finishedBetween, hph, Context.weightPart_phase]
    rw [Context.weightPart_k, Context.weightPart_t, Preset.contribution, Preset.path_total hwf] at hx
    exact ⟨_, hex.trans (congrArg _ hx), Context.weightPart_phase _, by simp⟩
  · have hf : c.phase.fired = true := by rw [hph]; rfl
    have he := Context.gapPart_ratePart hgap (.inr (.inr (.inl hph)))
    have hx := State.moveReaction_still ha hp hf he (by rw [hph]; rfl)
    rw [Context.stepped_dwelt (c := { c with lam := 256 }) hph hauto hd hw hout, handOverOf_releasing rfl] at hx
    have hex : exec .dwellEnd s = .next s.moveReaction := by
      refine whenAble_of ?_ s _
      rw [ht, State.beforePlayback_fired ha hp hf, hx]
      simp [releasedBetween, hph]
    exact hex.trans (congrArg _ hx)
  · have hf : c.phase.fired = true := by rw [hph]; rfl
    have he := Context.gapPart_ratePart hgap (.inr (.inr (.inr hph)))
    have hx := State.moveReaction_still ha hp hf he (by rw [hph]; rfl)
    rw [Context.stepped_faded (c := { c with lam := 256 }) hph hend] at hx
    have hex : exec .fadeOutEnd s = .next s.moveReaction := by
      refine whenAble_of ?_ s _
      rw [ht, State.beforePlayback_fired ha hp hf, hx]
      simp [hf]
    exact hex.trans (congrArg _ hx)

/-! ## The ends of the gather and of the armed countdown -/

theorem State.withActive_giveHandOver_unfired {c : Context} (hf : c.phase.fired = false) (s : State) (v : Int) :
    (s.withActive (some c)).giveHandOver v =
      { s with moves := { s.moves with active := some c, handOver := ⟨0, c.preset.sTrim, 0⟩ } } := by
  rw [State.withActive_handOver, handOverOf_unfired hf]

section
variable {s : State} {c : Context} (ha : s.moves.active = some c) (hp : s.moves.pending = none)
include ha hp

/-- A lone member of its set is armed at the gather's end (R78). -/
theorem State.moveReaction_gathered (hph : c.phase = .gather) (hcd : c.gatherCd ≤ 1)
    (hm : c.parts.has s.start.station = true) :
    s.moveReaction = { s with moves := { s.moves with
      active := some { c with phase := .armed, gatherCd := 0, armedCd := 30000 }
      handOver := ⟨0, c.preset.sTrim, 0⟩ } } := by
  have hc := (State.countPlace_gather (p := .active) ha hph hcd).trans (State.gatherExpiry_member hm)
  rw [State.moveReaction_unfired (State.countdowns_alone hc hp) rfl, State.withActive_giveHandOver_unfired rfl]
  rfl

/-- A context that is abandoned before its fire leaves nothing to hand over. -/
theorem State.moveReaction_abandoned {a : AbandonReason} (hf : c.phase.fired = false)
    (hc : s.countPlace .active = s.abandonActive a) :
    s.moveReaction = { s with
      moves := { s.moves with active := none, lastAbandon := some a, handOver := ⟨0, 0, 0⟩ }
      link := joinWithdrawn s.link c } := by
  rw [State.abandonActive_unfired ha hp hf] at hc
  rw [State.moveReaction_unfired (State.countdowns_alone hc hp) rfl]
  rfl

/-- A lone context that is no member of its set at the gather's end, where its JOIN did not go out (R78). -/
theorem State.moveReaction_late (hph : c.phase = .gather) (hcd : c.gatherCd = 1)
    (hm : c.parts.has s.start.station = false) (hj : c.ownJoin ≠ some .sent) :
    s.moveReaction = { s with
      moves := { s.moves with active := none, lastAbandon := some .joinLate, handOver := ⟨0, 0, 0⟩ }
      link := joinTakenBack s.link c } := by
  have hc := (State.countPlace_gather (p := .active) ha hph hcd.le).trans (State.gatherExpiry_late hm _)
  rw [if_neg hj] at hc
  rw [State.moveReaction_abandoned ha hp (by rw [hph]; rfl) hc, joinWithdrawn, if_pos hph]

/-- The same where its JOIN went out: the other nodes are told. -/
theorem State.moveReaction_late_sent (hph : c.phase = .gather) (hcd : c.gatherCd = 1)
    (hm : c.parts.has s.start.station = false) (hj : c.ownJoin = some .sent) (hroom : s.link.load .cue < 4) :
    s.moveReaction = { s with
      moves := { s.moves with active := none, lastAbandon := some .joinLate, handOver := ⟨0, 0, 0⟩ }
      link := { s.link with cueLane := s.link.cueLane ++ [⟨.cancel none c.moveId, none⟩] } } := by
  have hc := (State.countPlace_gather (p := .active) ha hph hcd.le).trans (State.gatherExpiry_late hm _)
  have hl : joinWithdrawn s.link c = s.link := by
    rw [joinWithdrawn, if_pos hph, joinTakenBack, if_neg (by rw [hj]; nofun)]
  rw [if_pos hj, State.abandon, State.abandonActive_unfired ha hp (by rw [hph]; rfl), hl, State.handCancel, State.hand,
    Link.hand_cue hroom] at hc
  rw [State.moveReaction_unfired (State.countdowns_alone hc hp) rfl]
  rfl

end

section
variable {s : State} {a : Context} (ha : s.moves.active = some a) (hph : a.phase = .suspended) (hgap : a.gap = 0)
include ha hph hgap

/-- The playback step of a suspended context, whatever stands beside it. -/
theorem State.playbackStep_suspended :
    s.playbackStep = { s with moves := { s.moves with
      active := some { a with lam := 256 }, handOver := ⟨a.w, a.preset.sTrim, 0⟩ } } := by
  have hs : s.moves.splices = false := by
    have hne : (a.phase != .suspended) = false := by rw [hph]; rfl
    simp only [Moves.splices, ha, hne, Bool.and_false]
  have hne : a.phase ≠ .running := by rw [hph]; nofun
  have hstill : (s.withActive (some { a with lam := 256 })).advancePart = (s.withActive (some { a with lam := 256 }), 0) := by
    simp only [State.advancePart, State.withActive_active, hph, Phase.advances, Bool.false_eq_true, if_false]
  have hfin : (a.phase == .finished) = false := by rw [hph]; rfl
  rw [State.playbackStep_unspliced ha hs (by rw [hph]; rfl) (Context.gapPart_ratePart hgap (.inr (.inl hph)))
      (State.drifted_of_not_running hne _) (congrArg (fun x => { a with lam := x }) (State.levelFactor_of_not_running hne _)),
    hstill, hfin, State.weightAndRelease_eq rfl]
  simp only [Bool.false_eq_true, if_false, Context.weightPart_held (c := { a with lam := 256 }) (.inr (.inl hph))]
  rw [if_neg (by simp [hph]), State.withActive_twice, State.withActive_handOver,
    handOverOf_playing (by rw [hph]; rfl) (by rw [hph]; nofun)]

end

/-- Settles O12: the countdown of the place, then the step of what it leaves. -/
theorem gatherAndArmedCountdownsEnd : Obligations.GatherAndArmedCountdownsEnd := by
  refine ⟨fun s c ht ha hp => ?_, fun s a c ht ha hp hph hgap hgather hcd hm => ?_⟩
  · have hgather (h : c.phase = .gather) (hcd : c.gatherCd = 1) : exec .gatherExpiry s = .next s.moveReaction :=
      whenAble_of (by simp [ht, Moves.any, ha, Context.gatherEnds, h, hcd]) s _
    have harm (h : c.phase = .armed) (hcd : c.armedCd = 1) : exec .armExpiry s = .next s.moveReaction :=
      whenAble_of (by simp [ht, Moves.any, ha, Context.armedEnds, h, hcd]) s _
    refine ⟨fun hph hcd hm => (hgather hph hcd).trans (congrArg _ (State.moveReaction_gathered ha hp hph hcd.le hm)),
      fun hph hcd hm hj hroom =>
        (hgather hph hcd).trans (congrArg _ (State.moveReaction_late_sent ha hp hph hcd hm hj hroom)),
      fun hph hcd hm hj => (hgather hph hcd).trans (congrArg _ (State.moveReaction_late ha hp hph hcd hm ?_)),
      fun hph hcd => (harm hph hcd).trans (congrArg _ ?_)⟩
    · obtain h | h := hj <;> rw [h] <;> nofun
    · rw [State.moveReaction_abandoned ha hp (by rw [hph]; rfl) (State.countPlace_armed (p := .active) ha hph hcd.le),
        joinWithdrawn, if_neg (by rw [hph]; nofun)]
  · have hex : exec .gatherExpiry s = .next s.moveReaction :=
      whenAble_of (by simp [ht, Moves.any, hp, Context.gatherEnds, hgather, hcd]) s _
    have hc := (State.countPlace_gather (p := .pending) hp hgather hcd.le).trans (State.gatherExpiry_pending ha hm)
    rw [hex, State.moveReaction, State.countdowns_beside ha (by rw [hph]; rfl), hc]
    refine ⟨fun hset => ?_, fun hset hj => ?_⟩
    · rw [if_pos hset.symm]
      exact congrArg _ (State.playbackStep_suspended (by exact ha) hph hgap)
    · rw [if_neg (Ne.symm hset), State.abandonPending_held _ rfl]
      exact congrArg _ (State.playbackStep_suspended (by exact ha) hph hgap)

end Sys2Proof.Machine
end

section
/-! The ends of the two ramps and of the resume gap (6.4), with the levelling and the drift check of the same step (6.5). -/

namespace Sys2Proof.Machine

/-! ## Levelling by the estimates -/

theorem le_foldl_min (es : List Nat) (t x : Nat) : x ≤ es.foldl min t ↔ x ≤ t ∧ ∀ e ∈ es, x ≤ e := by
  induction es generalizing t with
  | nil => simp
  | cons e es ih => rw [List.foldl_cons, ih, le_min_iff, List.forall_mem_cons, and_assoc]

theorem levelFactor_ahead {t e : Nat} {es : List Nat} (he : e ∈ es) (h : e + 256 < t) :
    levelFactor t (some es) = 252 := by
  have hmin := ((le_foldl_min es t _).mp le_rfl).2 e he
  rw [levelFactor, if_pos (by omega)]; rfl

theorem levelFactor_even {t : Nat} {es : List Nat} (h : ∀ e ∈ es, t ≤ e + 256) : levelFactor t (some es) = 256 := by
  have hmin := (le_foldl_min es t (t - 256)).mpr ⟨Nat.sub_le _ _, fun e he => by have := h e he; omega⟩
  rw [levelFactor, if_neg (by omega)]

theorem drifted_iff {t : Nat} {es : List Nat} :
    drifted t (some es) = true ↔ ∃ e ∈ es, t + 4096 < e ∨ e + 4096 < t := by
  refine List.any_eq_true.trans (exists_congr fun e => and_congr_right fun _ => decide_eq_true_iff.trans ?_)
  change 4096 < _ ↔ _
  omega

theorem mapM_of_all {f : Station → Option Nat} {g : Station → Nat} {ns : List Station} (h : ∀ n ∈ ns, f n = some (g n)) :
    ns.mapM f = some (ns.map g) := by
  induction ns with
  | nil => rfl
  | cons n ns ih =>
    rw [List.mapM_cons, h n (List.mem_cons_self ..), ih fun m hm => h m (List.mem_cons_of_mem _ hm)]
    rfl

section
variable {s : State} {c : Context}

theorem State.mem_others {n : Station} : n ∈ s.others c ↔ c.parts.has n = true ∧ n ≠ s.start.station := by
  simp only [State.others, List.mem_filter, allStations, List.mem_finRange, true_and, Bool.and_eq_true, bne_iff_ne]

/-- A FRESH entry that shows the move running gives its participant's estimate (R105). -/
theorem State.estimate_of_entry {n : Station} {e : PeerEntry} {x : Nat} (he : s.entry n = some e) (hage : e.age ≤ 8)
    (hrep : e.report = some (.move c.moveId .running)) (htl : e.timeline = some x) :
    s.estimate c n = some (x + 256 * e.age) := by
  have hf := (State.freshEntry_of_some he).trans (if_pos hage)
  simp only [State.estimate, hf, hrep, htl, if_true]

theorem State.estimates_of_all {tl : Station → Nat} (hk : c.kind = .joint) (hph : c.phase = .running)
    (h : ∀ n, c.parts.has n = true → n ≠ s.start.station → s.estimate c n = some (tl n)) :
    s.estimates c = some ((s.others c).map tl) := by
  rw [State.estimates, if_pos ⟨hk, hph⟩]
  exact mapM_of_all fun n hn => h n (State.mem_others.mp hn).1 (State.mem_others.mp hn).2

end

/-! ## A step that finds its timelines drifted apart (R106) -/

theorem State.handCancel_room {s : State} (h : s.link.load .cue < 4) (id : Byte) :
    s.handCancel id = { s with link := { s.link with cueLane := s.link.cueLane ++ [⟨.cancel none id, none⟩] } } := by
  rw [State.handCancel, State.hand, Link.hand_cue h]

/-- The move is abandoned and takes its first fade-out step; the other nodes are told. -/
theorem State.playbackStep_drifted {s : State} {c e d : Context} (ha : s.moves.active = some c)
    (hp : s.moves.pending = none) (hf : c.phase.fired = true) (he : c.gapPart.ratePart = e) (hrun : e.phase = .running)
    (hd : drifted e.t (s.estimates e) = true) (hroom : s.link.load .cue < 4)
    (hfade : ({ e with lam := levelFactor e.t (s.estimates e) } : Context).release.weightPart = d) :
    s.playbackStep = { s with
      moves := { s.moves with active := if d.w = 0 then none else some d, lastAbandon := some .drift
                              handOver := handOverOf (if d.w = 0 then none else some d) 0 }
      link := { s.link with cueLane := s.link.cueLane ++ [⟨.cancel none e.moveId, none⟩] } } := by
  generalize hlev : ({ e with lam := levelFactor e.t (s.estimates e) } : Context) = f at hfade
  have hfrun : f.phase = .running := by rw [← hlev]; exact hrun
  have hs2 : (s.splicePart.mapActive Context.gapPart).mapActive Context.ratePart = s.withActive (some e) := by
    rw [State.splicePart_alone hp, State.mapActive_eq, State.mapActive_eq]
    simp only [ha, Option.map_some, State.withActive_active, State.withActive_twice, he]
  have hs3 : (s.withActive (some e)).levelPart = { s with
      moves := { s.moves with active := some f.release, lastAbandon := some .drift }
      link := { s.link with cueLane := s.link.cueLane ++ [⟨.cancel none e.moveId, none⟩] } } := by
    simp only [State.levelPart, State.withActive_active, State.estimates_withActive, hd, if_true, hlev,
      State.putContext_active, State.withActive_twice]
    rw [State.abandonActive_fired_alone (s := s.withActive (some f)) _ rfl hp (by rw [hfrun]; rfl) (by rw [hfrun]; nofun)]
    exact State.handCancel_room (by exact hroom) _
  have hph : d.phase = .releasing := by rw [← hfade, Context.weightPart_phase]; rfl
  simp only [State.playbackStep, ha, Option.any_some, hf, if_true, hs2, hs3, State.advancePart]
  have hstep : Phase.advances f.release.phase = false ∧ (f.release.phase == .finished) = false := ⟨rfl, rfl⟩
  simp only [hstep, Bool.false_eq_true, if_false]
  rw [State.weightAndRelease_eq (c := f.release) rfl]
  simp only [Bool.false_eq_true, if_false, hfade, hph, true_and]
  rfl

/-! ## The ends of the ramps -/

section
variable {s : State} {c : Context} (ht : s.timerRuns = true) (ha : s.moves.active = some c)
  (hp : s.moves.pending = none) (hf : c.phase.fired = true)
include ht ha hp hf

theorem exec_resumeGapEnd (hgap : c.gap = 1) : exec .resumeGapEnd s = .next s.moveReaction :=
  whenAble_of (by rw [ht, State.beforePlayback_fired ha hp hf]; simp [Context.gapEnds, hf, hgap]) s _

end

section
variable {c : Context}

/-- An advance at full rate that stays short of the total (R94). -/
theorem Context.moved_level {l : Nat} (hr : c.r = 256) (hl : l = 252 ∨ l = 256) (h : c.t + 256 < c.preset.total) :
    ({ c with lam := l } : Context).moved false =
      { c with lam := l, t := c.t + l, k := c.preset.segIndex (c.t + l) } := by
  refine Context.moved_short ?_ (by dsimp only; omega)
  rw [Context.advanced_full _ (by exact hr)]
  dsimp only
  omega

/-- An advance on a ramp that stays short of the total (R94). -/
theorem Context.moved_ramp (h : c.t + c.r < c.preset.total) :
    ({ c with lam := 256 } : Context).moved false =
      { c with lam := 256, t := c.t + c.r, k := c.preset.segIndex (c.t + c.r) } := by
  refine Context.moved_short ?_ h
  rw [Context.advanced_level _ (by rfl)]
  exact min_eq_left h.le

theorem Context.ratePart_to_hold (hph : c.phase = .holding) (hr : c.r = 4) :
    c.ratePart = { c with phase := .suspended, r := 0 } := by
  rw [Context.ratePart_holding hph, hr]; rfl

theorem Context.ratePart_to_run (hph : c.phase = .resuming) (hr : c.r = 252) :
    c.ratePart = { c with r := 256, phase := .running } := by
  rw [Context.ratePart_resuming hph, hr]; rfl

/-- At the end of the resume gap a deferred hold is taken, and the same step ramps down (R103). -/
theorem Context.gapPart_ratePart_deferred (hph : c.phase = .resuming) (hgap : c.gap = 1) (hd : c.deferred = true)
    (hlo : 4 < c.r) :
    c.gapPart.ratePart = { c with gap := 0, deferred := false, phase := .holding, r := c.r - 4 } := by
  have hg : c.gapPart = { c with gap := 0, deferred := false, phase := .holding } := by
    rw [Context.gapPart, if_neg (by omega), if_pos ⟨hgap, hd⟩, if_pos (.inr hph)]
  rw [hg, Context.ratePart_holding rfl, if_neg (by exact not_le.mpr hlo)]

/-- With no hold deferred the ramp up goes on (R103). -/
theorem Context.gapPart_ratePart_ramp (hph : c.phase = .resuming) (hgap : c.gap = 1) (hd : c.deferred = false)
    (hhi : c.r < 252) :
    c.gapPart.ratePart = { c with gap := 0, deferred := false, phase := .resuming, r := c.r + 4 } := by
  have hg : c.gapPart = { c with gap := 0, deferred := false } := by
    rw [Context.gapPart, if_neg (by omega), if_neg (by simp [hd]), hgap, ← hd]
  rw [hg, Context.ratePart_resuming (by exact hph), if_neg (by dsimp only; omega), min_eq_right (by dsimp only; omega)]

theorem Context.gapPart_ratePart_running (hph : c.phase = .running) (hgap : c.gap = 1) (hd : c.deferred = false) :
    c.gapPart.ratePart = { c with gap := 0 } := by
  have hg : c.gapPart = { c with gap := 0 } := by
    rw [Context.gapPart, if_neg (by omega), if_neg (by simp [hd]), hgap]
  rw [hg]
  simp only [Context.ratePart, hph]

end

/-- A step on a ramp, short of the total (R94, R102). -/
theorem State.moveReaction_ramps {s : State} {c e : Context} (ha : s.moves.active = some c)
    (hp : s.moves.pending = none) (hf : c.phase.fired = true) (he : c.gapPart.ratePart = e)
    (hph : e.phase = .holding ∨ e.phase = .resuming) (hlt : e.t + e.r < e.preset.total) :
    s.moveReaction = { s with moves := { s.moves with
      active := some { e with lam := 256, t := e.t + e.r, k := e.preset.segIndex (e.t + e.r) }
      handOver := ⟨e.w, e.preset.sTrim,
        e.preset.contribution e.k e.t (e.preset.segIndex (e.t + e.r)) (e.t + e.r)⟩ } } := by
  have hne : e.phase ≠ .running := by obtain h | h := hph <;> rw [h] <;> nofun
  have hx := State.moveReaction_advances ha hp hf he (State.drifted_of_not_running hne _)
    (congrArg (fun x => { e with lam := x }) (State.levelFactor_of_not_running hne _))
    (by obtain h | h := hph <;> rw [h] <;> rfl) (Context.moved_ramp hlt)
  rwa [Context.weightPart_held (c := { e with lam := 256, t := e.t + e.r, k := e.preset.segIndex (e.t + e.r) })
    (hph.imp_right .inr)] at hx

/-- Settles O14: each end by its rate step, then the levelling by the estimates of the other participants. -/
theorem holdAndResumeRampsEnd : Obligations.HoldAndResumeRampsEnd := by
  intro s c ht ha hp
  refine ⟨fun hgap hph hr => ?_, fun hgap hph hr hlt hnear => ?_, fun hph hgap hlo hhi hlt => ?_,
    fun tl hph hgap hdef hr hk hall => ?_⟩
  · have hf : c.phase.fired = true := by rw [hph]; rfl
    have he := (congrArg Context.ratePart (Context.gapPart_none hgap)).trans (Context.ratePart_to_hold hph hr)
    have hx := State.moveReaction_still ha hp hf he rfl
    rw [Context.stepped_still (by rfl) (by nofun) (by nofun), Context.weightPart_held (.inr (.inl rfl)),
      handOverOf_playing (by rfl) (by nofun)] at hx
    have hex : exec .holdRampEnd s = .next s.moveReaction :=
      whenAble_of (by
        rw [ht, State.beforePlayback_fired ha hp hf]
        simp [Context.holdEnds, Context.gapPart_none hgap, hph, hr]) s _
    exact hex.trans (congrArg _ hx)
  · have hf : c.phase.fired = true := by rw [hph]; rfl
    have he := (congrArg Context.ratePart (Context.gapPart_none hgap)).trans (Context.ratePart_to_run hph hr)
    have hx := State.moveReaction_advances ha hp hf he hnear rfl rfl
      (Context.moved_level (c := { c with r := 256, phase := .running }) rfl (levelFactor_le _ _) hlt)
    have hex : exec .resumeRampEnd s = .next s.moveReaction :=
      whenAble_of (by
        rw [ht, State.beforePlayback_fired ha hp hf]
        simp [Context.resumeEnds, Context.gapPart_none hgap, hph, hr]) s _
    exact ⟨_, hex.trans (congrArg _ hx), rfl, rfl, rfl, rfl, rfl⟩
  · have hf : c.phase.fired = true := by rw [hph]; rfl
    rw [exec_resumeGapEnd ht ha hp hf hgap]
    cases hd : c.deferred with
    | true =>
      have hx := State.moveReaction_ramps ha hp hf (Context.gapPart_ratePart_deferred hph hgap hd hlo) (.inl rfl)
        (by dsimp only; omega)
      exact ⟨_, congrArg _ hx, rfl, rfl, rfl, rfl, rfl, rfl, rfl⟩
    | false =>
      have hx := State.moveReaction_ramps ha hp hf (Context.gapPart_ratePart_ramp hph hgap hd hhi) (.inr rfl)
        (by dsimp only; omega)
      exact ⟨_, congrArg _ hx, rfl, rfl, rfl, rfl, rfl, rfl, rfl⟩
  · have hf : c.phase.fired = true := by rw [hph]; rfl
    have he := Context.gapPart_ratePart_running hph hgap hdef
    have hest : s.estimates { c with gap := 0 } = some ((s.others c).map tl) :=
      State.estimates_of_all hk hph fun n hn hne => by
        obtain ⟨e, hen, hage, hrep, x, hx, htl⟩ := hall n hn hne
        rw [htl]; exact State.estimate_of_entry hen hage hrep hx
    rw [exec_resumeGapEnd ht ha hp hf hgap]
    refine ⟨fun hnear hlt => ?_, fun ⟨n, hn, hne, hfar⟩ hw h2 _ hroom => ?_⟩
    · have hd : drifted c.t (s.estimates { c with gap := 0 }) = false := by
        rw [hest]
        refine Bool.eq_false_iff.mpr fun hc => ?_
        obtain ⟨x, hx, hfar⟩ := drifted_iff.mp hc
        obtain ⟨n, hn, rfl⟩ := List.mem_map.mp hx
        obtain ⟨hn, hne⟩ := State.mem_others.mp hn
        have := hnear n hn hne
        omega
      have hx := State.moveReaction_advances ha hp hf he hd rfl (by rw [hph]; rfl)
        (Context.moved_level (c := { c with gap := 0 }) hr (levelFactor_le _ _) hlt)
      refine ⟨_, congrArg _ hx, ?_, by simp, ?_, by simp, by simp, fun ⟨n, hn, hne, hahead⟩ => ?_, fun heven => ?_⟩
      · exact (Context.weightPart_phase _).trans hph
      · exact (Context.weightPart_r _).trans hr
      · refine (Context.weightPart_lam _).trans ?_
        dsimp only
        rw [hest]
        exact levelFactor_ahead (List.mem_map.mpr ⟨n, State.mem_others.mpr ⟨hn, hne⟩, rfl⟩) hahead
      · refine (Context.weightPart_lam _).trans ?_
        dsimp only
        rw [hest]
        refine levelFactor_even fun x hx => ?_
        obtain ⟨n, hn, rfl⟩ := List.mem_map.mp hx
        obtain ⟨hn, hne⟩ := State.mem_others.mp hn
        exact heven n hn hne
    · have hd : drifted c.t (s.estimates { c with gap := 0 }) = true := by
        rw [hest]
        exact drifted_iff.mpr ⟨tl n, List.mem_map.mpr ⟨n, State.mem_others.mpr ⟨hn, hne⟩, rfl⟩, hfar⟩
      have hx := State.playbackStep_drifted ha hp hf he hph hd hroom (Context.release_faded hw h2)
      rw [if_neg (firstFade_pos h2).ne', handOverOf_releasing (by rfl)] at hx
      rw [State.moveReaction, State.countdowns_fired ha hp hf]
      exact ⟨_, congrArg _ hx, rfl, rfl, rfl, rfl, rfl⟩

end Sys2Proof.Machine
end

section
/-! The fire of a move (5.6, 6.1 to 6.3) and the splice at a keyframe boundary (6.7). -/

namespace Sys2Proof

/-! ## The path within a segment -/

namespace Preset
variable {p : Preset} (h : p.wellFormed = true)
include h

/-- Within a segment, its end included, the path is the way to the segment and the offset in it. -/
theorem path_within {k t : Nat} (hk : k + 1 < p.keys.length) (hlo : p.bound k ≤ t) (hhi : t ≤ p.bound (k + 1)) :
    p.path (p.segIndex t) t = (p.posAt k - p.posAt 0) + p.offset k (t - p.bound k) := by
  rcases hhi.eq_or_lt with rfl | hlt
  · rw [path_bound h hk, show p.bound (k + 1) - p.bound k = p.segLen k from Nat.add_sub_cancel_left _ _,
      offset_full p k (segLen_pos h hk), delta]
    ring
  · rw [segIndex, Preset.passed_eq p t k hlo _ (by omega) fun j hj _ => hlt.trans_le (p.bound_mono (by omega)), path]

/-- The contribution of a first step that stays within the first segment (R96). -/
theorem contribution_first {t : Nat} (ht : t ≤ 256) : p.contribution 0 0 (p.segIndex t) t = p.offset 0 t := by
  have h2 := (Preset.wellFormed_keys h).1
  have hseg : 256 ≤ p.bound 1 := (Nat.le_add_left _ _).trans (Preset.bound_lt_succ h (k := 0) (by omega))
  have hstart : p.path 0 0 = 0 := by
    rw [path, Nat.zero_sub, offset_zero]; ring
  rw [contribution, hstart, path_within h (k := 0) (by omega) (Nat.zero_le _) (ht.trans hseg)]
  change p.posAt 0 - p.posAt 0 + p.offset 0 t - 0 = _
  ring

end Preset

theorem Preset.onBound_iff (p : Preset) (t n : Nat) : p.onBound t n = true ↔ ∃ k, 1 ≤ k ∧ k ≤ n ∧ t = p.bound k := by
  induction n with
  | zero => simp only [onBound, Bool.false_eq_true, false_iff]; omega
  | succ n ih =>
    rw [onBound, Bool.or_eq_true, ih, beq_iff_eq]
    constructor
    · rintro (⟨k, h1, hk, rfl⟩ | h)
      · exact ⟨k, h1, by omega, rfl⟩
      · exact ⟨n + 1, by omega, le_rfl, h.symm⟩
    · rintro ⟨k, h1, hk, rfl⟩
      rcases hk.eq_or_lt with rfl | hlt
      · exact .inr rfl
      · exact .inl ⟨k, h1, by omega, rfl⟩

namespace Machine

/-! ## The first step of a fired context -/

theorem levelFactor_zero (ests : Option (List Nat)) : levelFactor 0 ests = 256 := by
  cases ests with
  | none => rfl
  | some es => rw [levelFactor, if_neg (by omega)]

theorem fadeInWeight_first (fIn wFloor : Nat) :
    fadeInWeight fIn wFloor (min (0 + 1) fIn) = max wFloor (if fIn = 0 then 256 else 256 / fIn) := by
  rw [fadeInWeight]
  split
  · rfl
  · rw [show min (0 + 1) fIn = 1 by omega, Nat.mul_one]

/-- An advance by its end: the total finishes the playback (R94, R97). -/
theorem Context.moved_eq {c : Context} {b : Bool} {t : Nat} (ht : c.advanced b = t) :
    c.moved b = { c with
      t := t, k := c.preset.segIndex t, phase := if t = c.preset.total then .finished else c.phase
      dwell := if t = c.preset.total then c.preset.dwell else c.dwell
      deferred := if t = c.preset.total then false else c.deferred
      gap := if t = c.preset.total then 0 else c.gap } := by
  rw [Context.moved, ht]
  by_cases h : t = c.preset.total
  · simp only [if_pos h]
  · simp only [if_neg h]

/-- A context as its fire or its splice leaves it in MP_RUNNING (R84, R92, R110). -/
structure Context.Begins (c : Context) : Prop where
  running : c.phase = .running
  rate : c.r = 256
  time : c.t = 0
  segment : c.k = 0
  gap : c.gap = 0
  count : c.fadeIn = 0
  preset : c.preset.wellFormed = true

/-- The step of a context that begins: a whole period, the first fade-in weight, the offset of the first period. -/
theorem State.moveReaction_begins {s : State} {c : Context} (ha : s.moves.active = some c)
    (hp : s.moves.pending = none) (hc : c.Begins) (hd : drifted 0 (s.estimates c) = false) :
    ∃ d, s.moveReaction = { s with moves := { s.moves with
        active := some d, handOver := ⟨d.w, c.preset.sTrim, c.preset.offset 0 256⟩ } } ∧
      d.t = 256 ∧ d.r = 256 ∧ d.lam = 256 ∧ d.moveId = c.moveId ∧ d.parts = c.parts ∧ d.preset = c.preset ∧
      d.releaseAtEnd = c.releaseAtEnd ∧ d.phase = (if c.preset.total = 256 then .finished else .running) ∧
      d.w = max c.wFloor (if c.preset.fIn = 0 then 256 else 256 / c.preset.fIn) := by
  obtain ⟨hph, hr, htime, hk, hgap, hcount, hwf⟩ := hc
  have hadv : ({ c with lam := 256 } : Context).advanced false = 256 := by
    rw [Context.advanced_full _ (by exact hr)]
    have := Preset.total_ge hwf
    dsimp only
    omega
  have hlev : ({ c with lam := levelFactor c.t (s.estimates c) } : Context) = { c with lam := 256 } := by
    rw [htime, levelFactor_zero]
  have hx := State.moveReaction_advances ha hp (by rw [hph]; rfl) (Context.gapPart_ratePart hgap (.inl hph))
    (htime ▸ hd) hlev (by rw [hph]; rfl) (Context.moved_eq hadv)
  rw [Context.weightPart_playing (by dsimp only; split <;> simp [hph])] at hx
  dsimp only at hx
  rw [hk, htime, Preset.contribution_first hwf le_rfl] at hx
  refine ⟨_, hx, rfl, hr, rfl, rfl, rfl, rfl, rfl, ?_, ?_⟩
  · dsimp only
    rw [hph]
    exact if_congr eq_comm rfl rfl
  · dsimp only
    rw [hcount]
    exact fadeInWeight_first _ _

/-! ## The fire -/

section
variable {s : State} {c : Context}

/-- A reaction whose countdowns leave a lone fired context is the reaction to that context. -/
theorem State.moveReaction_of_countdowns {u : State} (h : s.countdowns = u) (ha : u.moves.active = some c)
    (hp : u.moves.pending = none) (hf : c.phase.fired = true) : s.moveReaction = u.moveReaction := by
  rw [State.moveReaction, h, State.moveReaction, State.countdowns_fired ha hp hf]

theorem Context.fire_begins (hwf : c.preset.wellFormed = true) : c.fire.Begins := ⟨rfl, rfl, rfl, rfl, rfl, rfl, hwf⟩

/-- A released context of weight 0 fades out at once (R99). -/
theorem Context.release_empty (h : c.w = 0) : c.release.weightPart.w = 0 := by
  rw [Context.weightPart_releasing rfl]
  simp only [Context.release, h, fadeOutWeight, Nat.zero_mul, Nat.zero_div, ite_self]

theorem exec_moveFire (ht : s.timerRuns = true) (h : s.moves.any Context.fires = true) :
    exec .moveFire s = .next s.moveReaction :=
  whenAble_of (by rw [ht, h]; rfl) s _

variable (ha : s.moves.active = some c) (hp : s.moves.pending = none) (hph : c.phase = .posted) (hcd : c.postCd = 0)
include ha hp hph hcd

/-- A fire into timelines that have drifted apart: abandoned with the other nodes told, and gone at once (R106). -/
theorem State.moveReaction_fire_drifted (hd : drifted 0 (s.estimates c.fire) = true) (hw : c.w = 0)
    (hroom : s.link.load .cue < 4) :
    s.moveReaction = { s with
      moves := { s.moves with active := none, lastAbandon := some .drift, handOver := ⟨0, 0, 0⟩ }
      link := { s.link with cueLane := s.link.cueLane ++ [⟨.cancel none c.moveId, none⟩] } } := by
  have hc := State.countdowns_alone (State.countPlace_fire hph hcd ha) hp
  have hx := State.playbackStep_drifted (s := s.withActive (some c.fire)) rfl hp rfl
    (Context.gapPart_ratePart rfl (.inl rfl)) rfl hd hroom rfl
  rw [if_pos (Context.release_empty (by exact hw))] at hx
  rw [State.moveReaction, hc, hx]
  rfl

end

/-! ## The splice -/

/-- The state with the PENDING context fired in place of the ACTIVE one (R110). -/
def State.spliceTaken (s : State) (a c : Context) : State :=
  { s with moves := { s.moves with active := some (a.spliced c), pending := none } }

theorem Context.spliced_fired (a c : Context) (h : a.phase.fired = true) : (a.spliced c).phase.fired = true := by
  simp only [Context.spliced]
  split
  · exact h
  · rfl

section
variable {a c : Context}

theorem Context.spliced_fresh (h1 : a.phase ≠ .holding) (h2 : a.phase ≠ .resuming) :
    a.spliced c = { c.fire with w := spliceWeight c.preset.fIn a.w, wFloor := a.w } := by
  have h : ¬(a.phase = .holding ∨ a.phase = .resuming) := fun h => h.elim h1 h2
  simp only [Context.spliced, if_neg h]
  rfl

/-- A hold goes over with its phase, its rate and its gap. -/
theorem Context.spliced_held (h : a.phase = .holding) :
    a.spliced c = { c.fire with phase := .holding, r := a.r, gap := a.gap, deferred := a.deferred
                                w := spliceWeight c.preset.fIn a.w, wFloor := a.w } := by
  have hh : a.phase = .holding ∨ a.phase = .resuming := .inl h
  simp only [Context.spliced, if_pos hh]
  rw [h]
  rfl

variable {s : State} (ha : s.moves.active = some a) (hp : s.moves.pending = some c)
include ha hp

theorem Moves.splices_iff : s.moves.splices = true ↔
    c.due = true ∧ (∃ k, 1 ≤ k ∧ k ≤ a.preset.keys.length - 1 ∧ a.t = a.preset.bound k) ∧ a.phase ≠ .suspended := by
  simp only [Moves.splices, ha, Moves.pendingDue, hp, Option.any_some, Bool.and_eq_true, bne_iff_ne, ne_eq,
    Preset.onBoundary, Preset.onBound_iff, and_assoc]

/-- The reaction at which a posted PENDING context is due on a boundary is that to the context it has become. -/
theorem State.moveReaction_splices (hf : a.phase.fired = true) (hs : a.phase ≠ .suspended) (hph : c.phase = .posted)
    (hcd : c.postCd = 0) {k : Nat} (hk : 1 ≤ k) (hkn : k < a.preset.keys.length) (ht : a.t = a.preset.bound k) :
    s.moveReaction = (s.spliceTaken a { c with due := true }).moveReaction := by
  have hfired := Context.spliced_fired a { c with due := true } hf
  have hc := (State.countdowns_beside ha hf).trans (State.countPlace_due hph hcd hp)
  generalize hu : ({ s with moves := { s.moves with pending := some { c with due := true } } } : State) = u at hc
  have hua : u.moves.active = some a := by rw [← hu]; exact ha
  have hup : u.moves.pending = some { c with due := true } := by rw [← hu]
  have hsplice : u.splicePart = s.spliceTaken a { c with due := true } := by
    have h := (Moves.splices_iff hua hup).mpr ⟨rfl, ⟨k, hk, by omega, ht⟩, hs⟩
    simp only [State.splicePart, h, if_true, hua, hup]
    rw [← hu]
    rfl
  have halone : (s.spliceTaken a { c with due := true }).splicePart = s.spliceTaken a { c with due := true } :=
    State.splicePart_alone rfl
  have hany : (s.spliceTaken a { c with due := true }).moves.active.any (·.phase.fired) = true := hfired
  rw [State.moveReaction, hc, State.moveReaction, State.countdowns_fired (c := a.spliced { c with due := true }) rfl rfl hfired]
  simp only [State.playbackStep, hua, Option.any_some, hf, hany, if_true, hsplice, halone]

end

section
variable {s : State} {c g : Context} (ha : s.moves.active = some c)
include ha

theorem State.lapseIfStranded_unfinished (h : c.phase ≠ .finished) : s.lapseIfStranded = s := by
  unfold State.lapseIfStranded
  rw [ha]
  split
  · next heq _ =>
    obtain rfl := Option.some.inj heq
    exact if_neg fun hc => h hc.1
  · rfl

/-- Part 5 on a context that does not finish, whatever stands beside it. -/
theorem State.advancePart_unfinished (hv : Phase.advances c.phase = true) (hg : c.moved s.moves.pendingDue = g)
    (h : g.phase ≠ .finished) :
    s.advancePart = (s.withActive (some g), c.preset.contribution c.k c.t g.k g.t) := by
  have hlapse := State.lapseIfStranded_unfinished (s := s.withActive (some g)) rfl h
  simp only [State.advancePart, ha, hv, if_true, State.putContext_active, Context.stepContribution, hg, hlapse]

end

section
variable {s : State} {a c : Context} (ha : s.moves.active = some a) (hp : s.moves.pending = some c)
  (hph : c.phase = .posted) (hcd : c.postCd = 0)
include ha hp hph hcd

/-- A move short of a boundary within this period is stopped on it while the PENDING context is due (R109). -/
theorem State.moveReaction_waits (hrun : a.phase = .running) (hgap : a.gap = 0) (hr : a.r = 256)
    (hest : s.estimates a = none) (hwf : a.preset.wellFormed = true) (hk : a.k + 2 < a.preset.keys.length)
    (hlo : a.preset.bound a.k < a.t) (hhi : a.t < a.preset.bound (a.k + 1))
    (hnear : a.preset.bound (a.k + 1) ≤ a.t + 256) :
    ∃ d, s.moveReaction = { s with moves := { s.moves with
        active := some d, pending := some { c with due := true }
        handOver := ⟨d.w, a.preset.sTrim,
          (a.preset.posAt (a.k + 1) - a.preset.posAt a.k) - a.preset.offset a.k (a.t - a.preset.bound a.k)⟩ } } ∧
      d.t = a.preset.bound (a.k + 1) ∧ d.k = a.k + 1 ∧ d.phase = .running ∧ d.moveId = a.moveId := by
  have hf : a.phase.fired = true := by rw [hrun]; rfl
  have hc := (State.countdowns_beside ha hf).trans (State.countPlace_due hph hcd hp)
  generalize hu : ({ s with moves := { s.moves with pending := some { c with due := true } } } : State) = u at hc
  have hua : u.moves.active = some a := by rw [← hu]; exact ha
  have hup : u.moves.pending = some { c with due := true } := by rw [← hu]
  have hue : u.estimates a = none := by rw [← hu]; exact hest
  have hns : u.moves.splices = false := by
    refine Bool.eq_false_iff.mpr fun h => ?_
    obtain ⟨-, ⟨j, -, -, hj⟩, -⟩ := (Moves.splices_iff hua hup).mp h
    rcases Nat.lt_or_ge a.k j with h | h
    · have := a.preset.bound_mono (j := a.k + 1) (k := j) h; omega
    · have := a.preset.bound_mono (j := j) (k := a.k) h; omega
  have htotal : a.preset.bound (a.k + 1) < a.preset.total := Preset.bound_strict hwf (by omega) (by omega)
  have hadv : ({ a with lam := 256 } : Context).advanced true = a.preset.bound (a.k + 1) := by
    simp only [Context.advanced, hr, if_true]
    omega
  have hmoved := Context.moved_short hadv htotal
  have hx := State.playbackStep_unspliced hua hns hf (Context.gapPart_ratePart hgap (.inl hrun))
    (by rw [hue]; rfl) (by rw [hue]; rfl : _ = ({ a with lam := 256 } : Context))
  have hdue : (u.withActive (some { a with lam := 256 })).moves.pendingDue = true := by
    simp only [Moves.pendingDue, State.withActive_pending, hup, Option.any_some]
  have hstep := State.advancePart_unfinished (s := u.withActive (some { a with lam := 256 })) rfl (by rw [hrun]; rfl)
    (hdue ▸ hmoved) (by rw [hrun]; nofun)
  have hfin : (a.phase == .finished) = false := by rw [hrun]; rfl
  have hseg : a.preset.segIndex (a.preset.bound (a.k + 1)) = a.k + 1 := by
    rw [Preset.segIndex_bound hwf (by omega)]; omega
  have hv : a.preset.contribution a.k a.t (a.preset.segIndex (a.preset.bound (a.k + 1))) (a.preset.bound (a.k + 1)) =
      (a.preset.posAt (a.k + 1) - a.preset.posAt a.k) - a.preset.offset a.k (a.t - a.preset.bound a.k) := by
    rw [Preset.contribution, Preset.path_bound hwf (by omega), Preset.path]; ring
  rw [hstep, hfin, State.weightAndRelease_eq rfl] at hx
  dsimp only at hx
  rw [hv, hseg, if_neg Bool.false_ne_true] at hx
  rw [Context.weightPart_playing (c := { a with lam := 256, t := a.preset.bound (a.k + 1), k := a.k + 1 }) (.inl hrun),
    if_neg (by rw [hrun]; nofun), State.withActive_twice, State.withActive_handOver,
    handOverOf_playing (by rw [hrun]; rfl) (by rw [hrun]; nofun)] at hx
  rw [State.moveReaction, hc, hx, ← hu]
  exact ⟨_, rfl, rfl, rfl, hrun, rfl⟩

end

/-- Settles O13: a fire and a splice are the first step of the context they leave in the ACTIVE place. -/
theorem moveFiresWithItsFirstStep : Obligations.MoveFiresWithItsFirstStep := by
  refine ⟨fun s c ht ha hp hph hcd hdue hwf => ?_, fun s a c ht ha hp hph hcd hdue => ?_⟩
  · have hex := exec_moveFire ht (by simp [Moves.any, ha, Context.fires, hph, hcd, hdue])
    rw [hex]
    refine ⟨fun hd => ?_, fun hd hw hroom => congrArg _ (State.moveReaction_fire_drifted ha hp hph hcd hd hw hroom)⟩
    have hc := State.countdowns_alone (State.countPlace_fire hph hcd ha) hp
    obtain ⟨d, hx, ht', hr, hlam, hid, hparts, hpre, -, hphase, hw⟩ :=
      State.moveReaction_begins (s := s.withActive (some c.fire)) rfl hp (Context.fire_begins hwf) hd
    have hx' := (State.moveReaction_of_countdowns hc rfl hp rfl).trans hx
    exact ⟨d, congrArg _ hx', ht', hr, hlam, hid, hparts, hpre, hphase, hw.trans (Nat.zero_max _)⟩
  · have hex := exec_moveFire ht (by simp [Moves.any, hp, Context.fires, hph, hcd, hdue])
    rw [hex]
    refine ⟨fun ⟨k, hk, hkn, hat⟩ hwf => ⟨fun hplays hd => ?_, fun hhold hgap hlo hhi => ?_⟩,
      fun hrun hgap hr hest hwf hk hlo hhi hnear => ?_⟩
    · have hf : a.phase.fired = true := by obtain h | h := hplays <;> rw [h] <;> rfl
      have hs : a.phase ≠ .suspended := by obtain h | h := hplays <;> rw [h] <;> nofun
      have hfresh := Context.spliced_fresh (a := a) (c := { c with due := true })
        (by obtain h | h := hplays <;> rw [h] <;> nofun) (by obtain h | h := hplays <;> rw [h] <;> nofun)
      have hbegins : (a.spliced { c with due := true }).Begins := by
        rw [hfresh]; exact ⟨rfl, rfl, rfl, rfl, rfl, rfl, hwf⟩
      have hnear : drifted 0 ((s.spliceTaken a { c with due := true }).estimates (a.spliced { c with due := true })) =
          false := by
        rw [hfresh]; exact hd
      obtain ⟨d, hx, ht', hr, hlam, hid, hparts, hpre, hrel, hphase, hw⟩ :=
        State.moveReaction_begins (s := s.spliceTaken a { c with due := true }) rfl rfl hbegins hnear
      have hx' := (State.moveReaction_splices ha hp hf hs hph hcd hk hkn hat).trans hx
      exact ⟨d, congrArg _ hx', ht', hr, hlam, hid, hparts, hpre, hrel, hphase, hw⟩
    · have he : (a.spliced { c with due := true }).gapPart.ratePart =
          { a.spliced { c with due := true } with r := a.r - 4 } := by
        rw [Context.spliced_held hhold, Context.gapPart_none (by exact hgap), Context.ratePart_holding rfl,
          if_neg (by exact not_le.mpr hlo)]
      have hshort : 0 + (a.r - 4) < c.preset.total := by
        have := Preset.total_ge hwf; omega
      have hx := State.moveReaction_ramps (s := s.spliceTaken a { c with due := true }) rfl rfl
        (Context.spliced_fired _ _ (by rw [hhold]; rfl)) he (.inl (by rw [Context.spliced_held hhold])) hshort
      have hx' := (State.moveReaction_splices ha hp (by rw [hhold]; rfl) (by rw [hhold]; nofun) hph hcd hk hkn hat).trans hx
      rw [State.spliceTaken, Context.spliced_held hhold] at hx'
      dsimp only [Context.fire] at hx'
      rw [Nat.zero_add, Preset.contribution_first hwf (by omega)] at hx'
      exact ⟨_, congrArg _ hx', rfl, rfl, rfl, rfl, rfl, rfl⟩
    · obtain ⟨d, hx, hd⟩ := State.moveReaction_waits ha hp hph hcd hrun hgap hr hest hwf hk hlo hhi hnear
      exact ⟨d, congrArg _ hx, hd⟩

end Machine
end Sys2Proof
end

section
/-! What the reaction of each block to a period expiry leaves unchanged: the lanes that are not its own, the contexts of a
node that has none, the drive port, and the setpoint of a node that tracks. -/

namespace Sys2Proof.Machine

/-! ## The lanes a reaction leaves alone -/

section
variable {k : Lane} (hc : k ≠ .cue)
include hc

theorem State.handCancel_lane (s : State) (id : Byte) : (s.handCancel id).link.lane k = s.link.lane k :=
  Link.hand_lane_ne _ _ hc

theorem State.handHold_lane (s : State) (id : Byte) : (s.handHold id).link.lane k = s.link.lane k :=
  Link.hand_lane_ne _ _ hc

theorem State.abandonPending_lane (s : State) (a : AbandonReason) :
    (s.abandonPending a).link.lane k = s.link.lane k := by
  unfold State.abandonPending
  split
  · exact State.discard_lane hc (s.setAbandon a) _
  · rfl

theorem State.abandonActive_lane (s : State) (a : AbandonReason) :
    (s.abandonActive a).link.lane k = s.link.lane k := by
  unfold State.abandonActive
  split
  · rfl
  · split
    · rfl
    · split
      · exact State.abandonPending_lane hc _ _
      · exact (State.abandonPending_lane hc _ _).trans (State.discard_lane hc (s.setAbandon a) _)

theorem State.abandon_lane (s : State) (p : Place) (a : AbandonReason) :
    (s.abandon p a).link.lane k = s.link.lane k := by
  cases p
  · exact State.abandonActive_lane hc s a
  · exact State.abandonPending_lane hc s a

theorem State.gatherExpiry_lane (s : State) (p : Place) (c : Context) :
    (s.gatherExpiry p c).link.lane k = s.link.lane k := by
  by_cases hm : c.parts.has s.start.station = true
  · cases p with
    | active => rw [State.gatherExpiry_member hm]; rfl
    | pending =>
      unfold State.gatherExpiry
      rw [if_pos hm]
      dsimp only
      split
      · rfl
      · exact State.abandonPending_lane hc _ _
  · rw [State.gatherExpiry_late (by simpa using hm)]
    split
    · exact (State.handCancel_lane hc _ _).trans (State.abandon_lane hc _ _ _)
    · exact State.abandon_lane hc _ _ _

theorem State.countPlace_lane (s : State) (p : Place) : (s.countPlace p).link.lane k = s.link.lane k := by
  unfold State.countPlace
  split
  · rfl
  · split
    · split
      · exact State.gatherExpiry_lane hc _ _ _
      · rfl
    · split
      · exact State.abandon_lane hc _ _ _
      · rfl
    · split
      · rfl
      · split <;> rfl
    all_goals rfl

theorem State.lapseIfStranded_lane (s : State) : s.lapseIfStranded.link.lane k = s.link.lane k := by
  unfold State.lapseIfStranded
  split
  · split
    · exact State.discard_lane hc _ _
    · rfl
  · rfl

theorem State.stalePosted_lane (s : State) (p : Place) (n : Station) :
    (s.stalePosted p n).link.lane k = s.link.lane k := by
  unfold State.stalePosted
  split
  · rfl
  · split
    · cases p
      · exact State.handHold_lane hc _ _
      · exact State.lapseIfStranded_lane hc _
    · rfl

theorem State.staleFired_lane (s : State) (n : Station) : (s.staleFired n).link.lane k = s.link.lane k := by
  unfold State.staleFired
  split
  · rfl
  · split
    · exact State.handHold_lane hc _ _
    · rfl

theorem State.staleNotice_lane (s : State) (n : Station) : (s.staleNotice n).link.lane k = s.link.lane k :=
  ((State.stalePosted_lane hc _ _ n).trans (State.stalePosted_lane hc _ _ n)).trans (State.staleFired_lane hc s n)

theorem State.peerReaction_lane (s : State) : s.peerReaction.link.lane k = s.link.lane k :=
  State.peerReaction_keeps (P := fun t => t.link.lane k = s.link.lane k) (fun _ _ h => h)
    (fun n h => (State.staleNotice_lane hc _ n).trans h) (fun h => h) rfl

omit hc in
theorem State.splicePart_lane (s : State) : s.splicePart.link.lane k = s.link.lane k := by
  unfold State.splicePart
  split
  · split <;> rfl
  · rfl

theorem State.levelPart_lane (s : State) : s.levelPart.link.lane k = s.link.lane k := by
  unfold State.levelPart
  split
  · rfl
  · dsimp only
    split
    · exact (State.handCancel_lane hc _ _).trans (State.abandonActive_lane hc _ _)
    · rfl

theorem State.advancePart_lane (s : State) : s.advancePart.1.link.lane k = s.link.lane k := by
  unfold State.advancePart
  split
  · rfl
  · split
    · exact State.lapseIfStranded_lane hc _
    · rfl

omit hc in
theorem State.weightAndRelease_lane (s : State) (b : Bool) :
    (s.weightAndRelease b).link.lane k = s.link.lane k := by
  cases ha : s.moves.active with
  | none => simp only [State.weightAndRelease, ha]
  | some c => rw [State.weightAndRelease_eq ha]; rfl

theorem State.moveReaction_lane (s : State) : s.moveReaction.link.lane k = s.link.lane k := by
  have hcount : s.countdowns.link.lane k = s.link.lane k :=
    (State.countPlace_lane hc _ _).trans (State.countPlace_lane hc s _)
  unfold State.moveReaction State.playbackStep
  split
  · refine (State.weightAndRelease_lane _ _).trans ((State.advancePart_lane hc _).trans
      ((State.levelPart_lane hc _).trans ?_))
    exact (State.splicePart_lane s.countdowns).trans hcount
  · exact hcount

variable (hs : k ≠ .surge)
include hs

theorem State.faulting_lane (s : State) (c : FaultCause) : (s.faulting c).link.lane k = s.link.lane k := by
  unfold State.faulting
  dsimp only
  split
  · rfl
  · rfl
  · rfl
  all_goals exact State.enter_lane hc hs _ _

theorem State.axisReaction_lane (s : State) : s.axisReaction.link.lane k = s.link.lane k := by
  have h := s.axisReaction_outcome
  generalize s.axisReaction = t at h ⊢
  cases h with
  | stands | counted => rfl
  | entered new => exact State.enter_lane hc hs s new
  | faulted c => exact State.faulting_lane hc hs s c

theorem State.lineReaction_lane (hh : k ≠ .halt) (s : State) (levels : Lines Bool) :
    (s.lineReaction levels).link.lane k = s.link.lane k :=
  State.lineReaction_keeps (P := fun t => t.link.lane k = s.link.lane k) (fun _ h => h)
    (fun h => ((State.halt_lane hc hs _).trans (Link.hand_lane_ne _ _ hh)).trans h)
    (fun c h => (State.faulting_lane hc hs _ c).trans h) rfl levels

end

theorem State.storeReaction_lane (s : State) (b : Bool) (k : Lane) :
    (s.storeReaction b).link.lane k = s.link.lane k := by
  unfold State.storeReaction
  split
  · rfl
  · split
    · cases k <;> rfl
    · rfl

/-! ## What one block's reaction spares -/

section
variable (s : State) (input : ExpiryInput) (b : Block)

theorem State.react_start : (s.react input b).start = s.start := by
  cases b with
  | peers => exact s.peerReaction_only.start
  | moves => exact s.moveReaction_only.start
  | surge => rfl
  | axis => exact s.axisReaction_only.start
  | lines => exact (s.lineReaction_frame _).2.1
  | store => exact (s.storeReaction_frame _).2.1
  | setpoint => exact s.setpointOperation_frame.2.1

/-- What every block but the setpoint operation leaves alone. -/
structure State.Spares (s t : State) : Prop where
  blend : t.blend = s.blend
  owed : t.link.owed = s.link.owed
  stateLane : t.link.stateLane = s.link.stateLane
  exchange : t.drive.exchange = s.drive.exchange
  actual : t.drive.actual = s.drive.actual
  silent : t.drive.silent = s.drive.silent
  following : t.drive.following = s.drive.following

variable {b}

theorem State.react_spares (hb : b ≠ .setpoint) : s.Spares (s.react input b) := by
  have hc : Lane.state ≠ .cue := nofun
  have hs : Lane.state ≠ .surge := nofun
  have of_drive {t : State} (h1 : t.blend = s.blend) (h2 : t.link.owed = s.link.owed)
      (h3 : t.link.stateLane = s.link.stateLane) (h4 : t.drive = s.drive) : s.Spares t :=
    ⟨h1, h2, h3, by rw [h4], by rw [h4], by rw [h4], by rw [h4]⟩
  cases b with
  | setpoint => exact absurd rfl hb
  | peers =>
    have h := s.peerReaction_only
    exact of_drive h.blend h.owed (State.peerReaction_lane hc s) h.drive
  | moves =>
    have h := s.moveReaction_only
    exact of_drive h.blend h.owed (State.moveReaction_lane hc s) h.drive
  | surge => exact of_drive rfl rfl rfl rfl
  | axis =>
    have h := s.axisReaction_only
    exact of_drive h.blend h.owed (State.axisReaction_lane hc hs s) h.drive
  | lines =>
    obtain ⟨-, -, -, hblend, -, -, howed, -, hdrive⟩ := s.lineReaction_frame input.levels
    have hd : (s.react input .lines).drive = { s.drive with lines := s.sampledLines input.levels } := hdrive
    exact ⟨hblend, howed, State.lineReaction_lane hc hs nofun s _, by rw [hd], by rw [hd], by rw [hd], by rw [hd]⟩
  | store =>
    obtain ⟨-, -, -, hblend, -, -, -, -, hdrive, howed, -⟩ := s.storeReaction_frame input.stepFourDone
    exact of_drive hblend howed (State.storeReaction_lane s _ .state) hdrive

theorem State.setpointOperation_drive :
    s.setpointOperation.drive.lines = s.drive.lines ∧ s.setpointOperation.drive.actual = s.drive.actual := by
  have hframe := s.operate_frame
  obtain ⟨-, -, -, -, -, -, hd, -⟩ := hframe
  rw [State.setpointOperation, (State.handOverAll_only _ _).drive]
  exact ⟨(congrArg Drive.lines hd :), (congrArg Drive.actual hd :)⟩

theorem State.react_lines (hb : b ≠ .lines) : (s.react input b).drive.lines = s.drive.lines := by
  cases b with
  | lines => exact absurd rfl hb
  | setpoint => exact s.setpointOperation_drive.1
  | peers => exact congrArg Drive.lines s.peerReaction_only.drive
  | moves => exact congrArg Drive.lines s.moveReaction_only.drive
  | surge => rfl
  | axis => exact congrArg Drive.lines s.axisReaction_only.drive
  | store =>
    obtain ⟨-, -, -, -, -, -, -, -, hd, -⟩ := s.storeReaction_frame input.stepFourDone
    exact congrArg Drive.lines hd

theorem State.react_peers (hb : b ≠ .peers) : (s.react input b).peers = s.peers := by
  cases b with
  | peers => exact absurd rfl hb
  | setpoint => exact s.setpointOperation_frame.2.2.1
  | moves => exact s.moveReaction_only.peers
  | surge => rfl
  | axis => exact s.axisReaction_only.peers
  | lines => exact (s.lineReaction_frame _).2.2.1
  | store => exact (s.storeReaction_frame _).2.2.1

theorem State.react_window (hb : b ≠ .surge) : (s.react input b).surge.window = s.surge.window := by
  cases b with
  | surge => exact absurd rfl hb
  | setpoint =>
    obtain ⟨-, -, -, -, hw, -⟩ := s.setpointOperation_frame
    exact hw
  | peers => exact congrArg Surge.window s.peerReaction_only.surge
  | moves => exact congrArg Surge.window s.moveReaction_only.surge
  | axis => exact s.axisReaction_only.window
  | lines =>
    obtain ⟨-, -, -, -, -, hw, -⟩ := s.lineReaction_frame input.levels
    exact hw
  | store => exact congrArg Surge.window (s.storeReaction_only input.stepFourDone).surge

theorem State.react_store (hb : b ≠ .store) : (s.react input b).store = s.store := by
  cases b with
  | store => exact absurd rfl hb
  | setpoint =>
    obtain ⟨-, -, -, hst, -⟩ := s.setpointOperation_frame
    exact hst
  | peers => exact s.peerReaction_only.store
  | moves => exact s.moveReaction_only.store
  | surge => rfl
  | axis => exact s.axisReaction_only.store
  | lines =>
    obtain ⟨-, -, -, -, hst, -⟩ := s.lineReaction_frame input.levels
    exact hst

end

/-! ## A node with no context -/

/-- No context, and the last abandon reason as given. -/
def State.Idle (a : Option AbandonReason) (s : State) : Prop := s.moves.none? = true ∧ s.moves.lastAbandon = a

namespace State.Idle
variable {a : Option AbandonReason} {s : State}

theorem congr {t : State} (h : s.Idle a) (hm : t.moves = s.moves) : t.Idle a := by
  rw [Idle, hm]; exact h

theorem enter (h : s.Idle a) (n : NodeState) : (s.enter n).Idle a := h.congr (State.enter_moves_idle h.1 n)

theorem stopMotion (h : s.Idle a) : s.stopMotion.Idle a := h.congr (State.stopMotion_moves_idle h.1)

theorem settleStop (h : s.Idle a) : s.settleStop.Idle a := h.congr (State.settleStop_moves_idle h.1)

theorem faulting (h : s.Idle a) (c : FaultCause) : (s.faulting c).Idle a := by
  have hc : (s.setCause (causeAfterFaulting s.axis.cause c s.link.owed)).Idle a := h
  unfold State.faulting
  dsimp only
  split
  · exact h
  · exact h
  · exact hc
  all_goals exact hc.enter _

theorem starved (h : s.Idle a) : s.starved.Idle a := by
  have hc : (s.setCause .linkStarved).Idle a := h
  exact hc.stopMotion

theorem react (h : s.Idle a) (input : ExpiryInput) (b : Block) : (s.react input b).Idle a := by
  cases b with
  | peers => exact h.congr (State.peerReaction_idle_frame h.1).1
  | moves =>
    obtain ⟨ha, hp⟩ := (Moves.none?_iff _).mp h.1
    have hcount : s.countdowns = s := by simp [State.countdowns, State.countPlace, Moves.at, ha, hp]
    have hx := State.moveReaction_unfired hcount (by rw [ha]; rfl)
    change s.moveReaction.Idle a
    rw [hx]
    exact h
  | surge => exact h
  | axis =>
    have ho := s.axisReaction_outcome
    change s.axisReaction.Idle a
    generalize s.axisReaction = t at ho ⊢
    cases ho with
    | stands | counted => exact h
    | entered n => exact h.enter n
    | faulted c => exact h.faulting c
  | lines =>
    refine State.lineReaction_keeps (P := fun t => t.Idle a) (fun _ h => h) (fun {t} h => ?_) (fun c h => h.faulting c) h _
    have hm : t.estopPressed.moves = (t.hand .halt (plain (.halt .estopLine))).haltContexts.moves := State.halt_moves _
    rw [State.haltContexts_idle (s := t.hand .halt (plain (.halt .estopLine))) h.1] at hm
    exact h.congr hm
  | store => exact h.congr (s.storeReaction_only input.stepFourDone).moves
  | setpoint =>
    obtain ⟨-, -, -, hm, -⟩ := s.operate_frame
    have hh : (s.operate.handedOver s.axis.nodeState).Idle a := h.congr hm
    exact (State.reportsTaken_keeps (P := fun t => t.Idle a) (fun c h => h.faulting c) (fun h => h.starved) hh _).settleStop

end State.Idle

/-! ## A node that tracks -/

/-- A state that tracks, with the setpoint as given, and with both velocities 0 where `still` says so. -/
def State.Tracking (S : Int) (still : Bool) (s : State) : Prop :=
  s.axis.nodeState.tracks = true ∧ s.limiter.S = S ∧ (still = true → s.limiter = ⟨S, 0, 0⟩)

theorem NodeState.tracks_not_moving {n : NodeState} (h : n.tracks = true) : ¬ n.moving := by
  rintro (rfl | rfl | rfl) <;> exact Bool.false_ne_true h

theorem NodeState.tracks_still {n : NodeState} : n.tracks = true → n.still = true := by
  cases n <;> decide

namespace State.Tracking
variable {S : Int} {still : Bool} {s : State}

theorem congr {t : State} (h : s.Tracking S still) (ha : t.axis.nodeState = s.axis.nodeState)
    (hl : t.limiter = s.limiter) : t.Tracking S still := by
  rw [Tracking, ha, hl]; exact h

theorem enter (h : s.Tracking S still) {n : NodeState} (hn : n.tracks = true) : (s.enter n).Tracking S still := by
  have hl : (s.enter n).limiter = ⟨S, 0, 0⟩ := by
    rw [State.enter_limiter, ← h.2.1]
    have hne : n ≠ .brakeRelease := fun e => by rw [e] at hn; exact Bool.false_ne_true hn
    simp only [limiterAt, if_neg hne, NodeState.tracks_still hn, if_true]
  exact ⟨by rw [State.enter_axis]; exact hn, by rw [hl], fun _ => hl⟩

theorem faulting (h : s.Tracking S still) (c : FaultCause) : (s.faulting c).Tracking S still := by
  have hc : (s.setCause (causeAfterFaulting s.axis.cause c s.link.owed)).Tracking S still := h
  unfold State.faulting
  dsimp only
  split
  · exact h
  · exact hc
  · exact hc
  all_goals exact hc.enter rfl

theorem stopMotion (h : s.Tracking S still) : s.stopMotion.Tracking S still := by
  rw [State.stopMotion_standing (NodeState.tracks_not_moving h.1)]; exact h

theorem starved (h : s.Tracking S still) : s.starved.Tracking S still := by
  have hc : (s.setCause .linkStarved).Tracking S still := h
  exact hc.stopMotion

theorem axisReaction (h : s.Tracking S still) : s.axisReaction.Tracking S still := by
  have hwait : s.brakeWait.Tracking S still := by
    unfold State.brakeWait
    split
    · exact h.faulting _
    · exact h.congr rfl rfl
  have hengage : s.engageStep.Tracking S still := by
    unfold State.engageStep
    split
    · exact hwait
    · exact h.enter rfl
  have ht := h.1
  unfold State.axisReaction
  split
  case h_1 hn | h_3 hn => rw [hn] at ht; exact absurd ht Bool.false_ne_true
  case h_2 => exact hengage
  all_goals exact h

theorem lineReaction (h : s.Tracking S still) (levels : Lines Bool) : (s.lineReaction levels).Tracking S still := by
  refine State.lineReaction_keeps (P := fun t => t.Tracking S still) (fun _ h => h) (fun {t} h => ?_)
    (fun c h => h.faulting c) h levels
  obtain ⟨ha, hl, -⟩ := State.halt_standing (s := t.hand .halt (plain (.halt .estopLine)))
    (NodeState.tracks_not_moving h.1)
  exact h.congr ha hl

theorem react (h : s.Tracking S still) (input : ExpiryInput) {b : Block} (hb : b ≠ .setpoint) :
    (s.react input b).Tracking S still := by
  cases b with
  | setpoint => exact absurd rfl hb
  | peers => exact h.congr (by rw [State.react, s.peerReaction_only.axis]) s.peerReaction_only.limiter
  | moves => exact h.congr (by rw [State.react, s.moveReaction_only.axis]) s.moveReaction_only.limiter
  | surge => exact h
  | axis => exact h.axisReaction
  | lines => exact h.lineReaction _
  | store =>
    obtain ⟨-, -, -, -, hl, -, -, ha, -⟩ := s.storeReaction_frame input.stepFourDone
    exact h.congr (congrArg Axis.nodeState ha) hl

/-- The setpoint operation of a state that tracks (R41): the setpoint taken from the drive's position. -/
theorem setpointOperation (h : s.Tracking S still) :
    s.setpointOperation.Tracking ((s.drive.actual.map trackedSetpoint).getD S) true ∧
    s.operate.limiter = ⟨(s.drive.actual.map trackedSetpoint).getD S, 0, 0⟩ := by
  obtain ⟨ht, hS, -⟩ := h
  have hop : s.operate = s.trackOperation := by
    unfold State.operate
    split
    case h_4 | h_5 | h_6 | h_7 | h_8 => rfl
    all_goals next hn => rw [hn] at ht; exact absurd ht Bool.false_ne_true
  have hl : s.operate.limiter = ⟨(s.drive.actual.map trackedSetpoint).getD S, 0, 0⟩ := by rw [hop, ← hS]; rfl
  have hh : (s.operate.handedOver s.axis.nodeState).Tracking ((s.drive.actual.map trackedSetpoint).getD S) true :=
    ⟨by rw [hop]; exact ht, congrArg Limiter.S hl, fun _ => hl⟩
  have hr := State.reportsTaken_keeps (P := fun t => t.Tracking _ true) (fun c h => h.faulting c) (fun h => h.starved)
    hh s.operate
  have hns : ((s.operate.handedOver s.axis.nodeState).reportsTaken s.operate).axis.nodeState ≠ .stopping := fun e => by
    have := hr.1
    rw [e] at this
    exact Bool.false_ne_true this
  refine ⟨?_, hl⟩
  rw [State.setpointOperation, State.handOverAll, State.settleStop_standing hns]
  exact hr

end State.Tracking

end Sys2Proof.Machine
end

section
/-! The period expiry (R23). The setpoint operation hands over the values it wrote (R39, R151), and each block reacts once,
whatever the order: its own part of the state is as its reaction left it, since every other block spares it. -/

namespace Sys2Proof.Machine

/-! ## The hand-over -/

section
variable (s : State)

theorem State.operate_granted : s.operate.surge.granted = s.surge.granted := by
  have hclaim : ∀ v w, (s.claimAsked v w).surge.granted = s.surge.granted := by
    intro v w
    unfold State.claimAsked State.claimTaken
    split
    · split
      · next h => simp only [Surge.granted, h.1]; rfl
      · rfl
    · rfl
  unfold State.operate
  split
  case h_1 | h_2 => exact hclaim _ _
  all_goals rfl

/-- The report of a setpoint operation, as it is placed (R39, R168). -/
def State.placedReport : StateReport := { s.operate.stateReport with owed := s.link.placedOwed }

theorem State.setpointOperation_placed :
    s.setpointOperation.link.stateLane = [plain (.state s.placedReport)] ∧
    s.setpointOperation.link.owed = s.link.placedOwed := by
  have hc : Lane.state ≠ .cue := nofun
  have hs : Lane.state ≠ .surge := nofun
  obtain ⟨-, -, -, -, -, -, -, -, howed, hlane, -⟩ := s.operate_frame
  have hp : s.operate.link.placedOwed = s.link.placedOwed := by
    simp only [Link.placedOwed, howed, hlane]
  have hreports := State.reportsTaken_keeps (P := fun t => t.link.lane .state = (s.operate.handedOver s.axis.nodeState).link.lane .state)
    (fun c h => (State.faulting_lane hc hs _ c).trans h) (fun h => (State.stopMotion_lane hc hs _).trans h) rfl s.operate
  refine ⟨((State.settleStop_lane hc hs _).trans hreports).trans ?_, (State.handOverAll_only _ _).owed.trans hp⟩
  rw [State.placedReport, ← hp]
  rfl

variable {s}

theorem State.stickLost_of_fresh {x : StickRecord} (h : s.peers.stick = some x) (hage : x.age ≤ 8) :
    s.stickLost = false := by
  have hf : freshAge x.age = true := decide_eq_true (Nat.lt_succ_of_le hage)
  simp only [State.stickLost, h, hf, Bool.not_true]

theorem State.stickLost_of_stale (h : ∀ x, s.peers.stick = some x → 9 ≤ x.age) : s.stickLost = true := by
  cases hx : s.peers.stick with
  | none => simp only [State.stickLost, hx]
  | some x =>
    have hf : freshAge x.age = false := decide_eq_false (Nat.not_lt.mpr (h x hx))
    simp only [State.stickLost, hx, hf, Bool.not_false]

theorem Moves.reportOf_active {m : Moves} {c : Context} (h : m.active = some c) :
    m.reportOf = (some (.move c.moveId c.phase), some c.parts, if c.phase.fired = true then some c.t else none) := by
  simp only [Moves.reportOf, h]

theorem Moves.reportOf_none {m : Moves} (h : m.active = none) :
    m.reportOf = (m.lastAbandon.map .abandoned, none, none) := by
  simp only [Moves.reportOf, h]

end

/-- The second part of O11: what a setpoint operation hands over (R39, R71, R151). -/
theorem State.setpointOperation_handOver (s : State) :
    ∃ r, s.setpointOperation.link.stateLane = [plain (.state r)] ∧
    s.setpointOperation.drive.exchange = some
      { number := nextNumber s.drive.exchange, setpoint := s.operate.limiter.S, feedForward := s.operate.limiter.vc
        enable := s.axis.driveEnable, tracking := s.axis.nodeState.tracks, outcome := .awaiting } ∧
    r.setpoint = s.operate.limiter.S / 256 ∧ r.velocity = s.operate.limiter.vc ∧
    r.ownPos = s.operate.ownPos / 256 ∧ r.nodeState = s.axis.nodeState ∧ r.cause = s.axis.cause ∧
    r.role = s.reportedRole ∧ r.lastResult = s.link.echo ∧ r.surgeGranted = decide (s.surge.status = .granted) ∧
    ((∃ x, s.peers.stick = some x ∧ x.age ≤ 8) → r.stickLost = false) ∧
    ((∀ x, s.peers.stick = some x → 9 ≤ x.age) → r.stickLost = true) ∧
    (s.link.stateLane = [] → r.owed = s.link.owed) ∧ (s.link.stateLane ≠ [] → r.owed = min (s.link.owed + 1) 9) ∧
    (∀ c, s.moves.active = some c → r.report = some (.move c.moveId c.phase) ∧ r.parts = some c.parts ∧
      r.timeline = if c.phase.fired = true then some c.t else none) ∧
    (s.moves.active = none →
      r.report = s.moves.lastAbandon.map .abandoned ∧ r.parts = none ∧ r.timeline = none) := by
  obtain ⟨-, hstart, hpeers, hmoves, -, haxis, hdrive, -, -, -, hecho⟩ := s.operate_frame
  have hreport : s.placedReport.report = s.moves.reportOf.1 ∧ s.placedReport.parts = s.moves.reportOf.2.1 ∧
      s.placedReport.timeline = s.moves.reportOf.2.2 := by rw [← hmoves]; exact ⟨rfl, rfl, rfl⟩
  have hstick : s.placedReport.stickLost = s.stickLost := by
    change s.operate.stickLost = _
    simp only [State.stickLost, hpeers]
  refine ⟨s.placedReport, s.setpointOperation_placed.1, ?_, rfl, rfl, rfl, congrArg Axis.nodeState haxis,
    congrArg Axis.cause haxis, ?_, hecho, ?_, ?_, ?_, ?_, ?_, ?_, ?_⟩
  · rw [s.setpointOperation_exchange, State.newExchange, hdrive, haxis]
  · change s.operate.reportedRole = _
    rw [State.reportedRole, hstart]; rfl
  · exact s.operate_granted
  · rintro ⟨x, hx, hage⟩
    rw [hstick]; exact State.stickLost_of_fresh hx hage
  · intro h
    rw [hstick]; exact State.stickLost_of_stale h
  · intro h
    change s.link.placedOwed = _
    rw [Link.placedOwed, h]; rfl
  · intro h
    change s.link.placedOwed = _
    rw [Link.placedOwed, if_neg (by simpa using h)]; rfl
  · intro c hc
    rw [hreport.1, hreport.2.1, hreport.2.2, Moves.reportOf_active hc]
    exact ⟨rfl, rfl, rfl⟩
  · intro hn
    rw [hreport.1, hreport.2.1, hreport.2.2, Moves.reportOf_none hn]
    exact ⟨rfl, rfl, rfl⟩

end Sys2Proof.Machine
end

section
/-! What every period expiry brings, whatever happens at it: one exchange and one STATE frame, the ages, the window, the
lines, an operation in flight, and the setpoint of a state that tracks. -/

namespace Sys2Proof.Machine

variable {s : State} {input : ExpiryInput}

/-- The exchange and the report of an expiry's one setpoint operation, as they stand after the expiry. -/
structure State.HandedOver (s t : State) (e : Exchange) (r : StateReport) : Prop where
  exchange : t.drive.exchange = some e
  stateLane : t.link.stateLane = [plain (.state r)]
  number : e.number = nextNumber s.drive.exchange
  outcome : e.outcome = .awaiting
  tracking : e.tracking = r.nodeState.tracks
  setpoint : r.setpoint = e.setpoint / 256
  velocity : r.velocity = e.feedForward
  ownPos : r.ownPos = clampFine (e.setpoint - t.blend.F) / 256
  role : r.role = s.reportedRole
  owed : r.owed = t.link.owed
  idle : s.moves.none? = true → r.report = s.moves.lastAbandon.map .abandoned ∧ r.parts = none ∧ r.timeline = none

theorem State.HandedOver.spared {t u : State} {e : Exchange} {r : StateReport} (h : s.HandedOver t e r)
    (hs : t.Spares u) : s.HandedOver u e r where
  exchange := hs.exchange.trans h.exchange
  stateLane := hs.stateLane.trans h.stateLane
  number := h.number
  outcome := h.outcome
  tracking := h.tracking
  setpoint := h.setpoint
  velocity := h.velocity
  ownPos := by rw [hs.blend]; exact h.ownPos
  role := h.role
  owed := h.owed.trans hs.owed.symm
  idle := h.idle

theorem State.setpointOperation_handedOver {u : State} (he : u.drive.exchange = s.drive.exchange)
    (hstart : u.start = s.start) (hidle : s.moves.none? = true → u.Idle s.moves.lastAbandon) :
    ∃ e r, s.HandedOver u.setpointOperation e r := by
  obtain ⟨r, hlane, hx, hset, hvel, hown, hnode, -, hrole, -, -, -, -, -, -, -, hnone⟩ := u.setpointOperation_handOver
  have howed : r.owed = u.setpointOperation.link.owed := by
    obtain ⟨hlane', howed⟩ := u.setpointOperation_placed
    obtain rfl : r = u.placedReport := by simpa [plain] using hlane.symm.trans hlane'
    exact howed.symm
  refine ⟨_, r, hx, hlane, by rw [he], rfl, by rw [hnode], hset, hvel, ?_, ?_, howed, fun hi => ?_⟩
  · obtain ⟨-, -, -, -, -, hblend, -⟩ := u.setpointOperation_frame
    rw [hblend]; exact hown
  · rw [hrole, State.reportedRole, hstart]; rfl
  · obtain ⟨hn, hab⟩ := hidle hi
    rw [← hab]
    exact hnone ((Moves.none?_iff _).mp hn).1

theorem State.expiry_start : (s.expiry input).start = s.start :=
  State.expiry_keeps (P := fun t => t.start = s.start) input (fun t b h => (t.react_start input b).trans h) rfl

/-- One exchange and one STATE frame (R39, R151). -/
theorem State.expiry_handedOver : ∃ e r, s.HandedOver (s.expiry input) e r :=
  State.expiry_once (s := s) (P := fun t => t.drive.exchange = s.drive.exchange ∧ t.start = s.start ∧
      (s.moves.none? = true → t.Idle s.moves.lastAbandon))
    (Q := fun t => ∃ e r, s.HandedOver t e r) input .setpoint
    (fun t c hc ⟨he, hs, hi⟩ => ⟨(t.react_spares input hc).exchange.trans he, (t.react_start input c).trans hs,
      fun h => (hi h).react input c⟩)
    (fun _ ⟨he, hs, hi⟩ => State.setpointOperation_handedOver he hs hi)
    (fun t _ hc ⟨e, r, h⟩ => ⟨e, r, h.spared (t.react_spares input hc)⟩) ⟨rfl, rfl, fun h => ⟨h, rfl⟩⟩

/-- The ages of the peer table and of the stick record (R47, R54). -/
theorem State.expiry_ages :
    (∀ n, (s.expiry input).entry n = (s.entry n).map fun e => { e with age := older e.age }) ∧
    (s.expiry input).peers.stick = s.peers.stick.map fun r => { r with age := older r.age } := by
  have entry_of {t u : State} (h : u.peers = t.peers) (n : Station) := State.entry_congr h n
  exact State.expiry_once (s := s) (P := fun t => t.peers = s.peers)
    (Q := fun t => (∀ n, t.entry n = (s.entry n).map fun e => { e with age := older e.age }) ∧
      t.peers.stick = s.peers.stick.map fun r => { r with age := older r.age }) input .peers
    (fun t c hc h => (t.react_peers input hc).trans h)
    (fun t h => ⟨fun n => by rw [← entry_of h n]; exact t.peerReaction_entry n,
      by rw [← h]; exact t.peerReaction_stick⟩)
    (fun t c hc ⟨he, hs⟩ => ⟨fun n => (entry_of (t.react_peers input hc) n).trans (he n),
      (congrArg Peers.stick (t.react_peers input hc)).trans hs⟩) rfl

theorem Surge.statusStep_window (g : Surge) : g.statusStep.window = g.window := by
  unfold Surge.statusStep
  split
  · split <;> rfl
  all_goals rfl

/-- The window's lives (R62). -/
theorem State.expiry_window : (s.expiry input).surge.window = agedWindow s.surge.window :=
  State.expiry_once (s := s) (P := fun t => t.surge.window = s.surge.window)
    (Q := fun t => t.surge.window = agedWindow s.surge.window) input .surge
    (fun t c hc h => (t.react_window input hc).trans h) (fun t h => by rw [← h]; exact Surge.statusStep_window _)
    (fun t c hc h => (t.react_window input hc).trans h) rfl

theorem State.sampledLines_congr {t : State} (hs : t.start = s.start) (hl : t.drive.lines = s.drive.lines)
    (levels : Lines Bool) : t.sampledLines levels = s.sampledLines levels := by
  simp only [State.sampledLines, hs, hl]

/-- The five lines (R157). -/
theorem State.expiry_lines : (s.expiry input).drive.lines = s.sampledLines input.levels :=
  State.expiry_once (s := s) (P := fun t => t.start = s.start ∧ t.drive.lines = s.drive.lines)
    (Q := fun t => t.drive.lines = s.sampledLines input.levels) input .lines
    (fun t c hc ⟨hs, hl⟩ => ⟨(t.react_start input c).trans hs, (t.react_lines input hc).trans hl⟩)
    (fun t ⟨hs, hl⟩ => by
      obtain ⟨-, -, -, -, -, -, -, -, hd⟩ := t.lineReaction_frame input.levels
      exact (congrArg Drive.lines hd).trans (State.sampledLines_congr hs hl _))
    (fun t c hc h => (t.react_lines input hc).trans h) ⟨rfl, rfl⟩

/-- The operation in flight (R126). -/
theorem State.expiry_op {op : OpRecord} (h : s.store.op.record? = some op) (hlt : op.elapsed < 249) :
    (s.expiry input).store.op = s.store.op.withElapsed (op.elapsed + 1) :=
  State.expiry_once (s := s) (P := fun t => t.store = s.store)
    (Q := fun t => t.store.op = s.store.op.withElapsed (op.elapsed + 1)) input .store
    (fun t c hc g => (t.react_store input hc).trans g)
    (fun t g => by
      change (t.storeReaction _).store.op = _
      rw [State.storeReaction, g, h]
      dsimp only
      rw [if_neg (show ¬Config.commitLimit ≤ op.elapsed + 1 from Nat.not_le.mpr (Nat.succ_lt_succ hlt))])
    (fun t c hc g => (congrArg Store.op (t.react_store input hc)).trans g) rfl

/-- The setpoint of a state that tracks (R41). -/
theorem State.expiry_tracks (h : s.axis.nodeState.tracks = true) :
    (s.expiry input).limiter = ⟨(s.drive.actual.map trackedSetpoint).getD s.limiter.S, 0, 0⟩ ∧
    ∃ e, (s.expiry input).drive.exchange = some e ∧
      e.setpoint = (s.drive.actual.map trackedSetpoint).getD s.limiter.S ∧ e.feedForward = 0 ∧ e.tracking = true := by
  have hx := State.expiry_once (s := s) (P := fun t => t.Tracking s.limiter.S false ∧ t.drive.actual = s.drive.actual)
    (Q := fun t => t.Tracking ((s.drive.actual.map trackedSetpoint).getD s.limiter.S) true ∧
      ∃ e, t.drive.exchange = some e ∧
        e.setpoint = (s.drive.actual.map trackedSetpoint).getD s.limiter.S ∧ e.feedForward = 0 ∧ e.tracking = true)
    input .setpoint
    (fun t c hc ⟨ht, ha⟩ => ⟨ht.react input hc, (t.react_spares input hc).actual.trans ha⟩)
    (fun t ⟨ht, ha⟩ => by
      obtain ⟨hop, hl⟩ := ht.setpointOperation
      rw [ha] at hop hl
      refine ⟨hop, _, t.setpointOperation_exchange, ?_, ?_, ht.1⟩
      · exact congrArg Limiter.S hl
      · exact congrArg Limiter.vc hl)
    (fun t c hc ⟨ht, e, he, hrest⟩ => ⟨ht.react input hc, e, (t.react_spares input hc).exchange.trans he, hrest⟩)
    ⟨⟨h, rfl, nofun⟩, rfl⟩
  exact ⟨hx.1.2.2 rfl, hx.2⟩

end Sys2Proof.Machine
end

section
/-! A quiet expiry: no line becomes active and no report is due. Then no block stops or faults the node, so a block's
reaction is what its own rules say, on the state the expiry began with. -/

namespace Sys2Proof.Machine

theorem State.quiet_brake {s : State} {levels : Lines Bool} (hq : s.quiet levels) :
    s.axis.brakeCount + 1 < s.start.profile.brakeTimeout := by
  obtain ⟨-, -, -, -, -, hb⟩ := hq
  exact hb

/-- What each reaction of an expiry keeps, given the blocks that have still to react, the whole expiry keeps. -/
theorem State.expiry_turns {I : List Block → State → Prop} {input : ExpiryInput}
    (turn : ∀ b rem t, b ∉ rem → I (b :: rem) t → I rem (t.react input b)) {s : State}
    (h : I (schedule input.order) s) : I [] (s.expiry input) := by
  have hn : (schedule input.order).Nodup := (schedule_perm input.order).nodup_iff.mpr (by decide)
  unfold State.expiry
  generalize schedule input.order = bs at h hn ⊢
  induction bs generalizing s with
  | nil => exact h
  | cons b bs ih =>
    obtain ⟨hb, hn⟩ := List.nodup_cons.mp hn
    exact ih (turn b bs s hb h) hn

theorem mem_schedule (order : List Block) (b : Block) : b ∈ schedule order :=
  (schedule_perm order).mem_iff.mpr (Block.mem_all b)

/-- The part of an expiry's state that decides whether a line change or a report is due, as it stands while the blocks
`rem` have still to react. -/
structure State.QuietAt (s : State) (levels : Lines Bool) (rem : List Block) (t : State) : Prop where
  start : t.start = s.start
  lines : t.drive.lines = if .lines ∈ rem then s.drive.lines else s.sampledLines levels
  silent : .setpoint ∈ rem → t.drive.silent = s.drive.silent
  following : .setpoint ∈ rem → t.drive.following = s.drive.following
  owed : .setpoint ∈ rem → t.link.owed = s.link.owed

namespace State.QuietAt
variable {s t : State} {input : ExpiryInput} {b : Block} {rem : List Block}

theorem begins (s : State) (input : ExpiryInput) : s.QuietAt input.levels (schedule input.order) s where
  start := rfl
  lines := (if_pos (mem_schedule _ _)).symm
  silent _ := rfl
  following _ := rfl
  owed _ := rfl

theorem turn (hb : b ∉ rem) (h : s.QuietAt input.levels (b :: rem) t) :
    s.QuietAt input.levels rem (t.react input b) := by
  have hset (hm : .setpoint ∈ rem) : b ≠ .setpoint := fun e => hb (e ▸ hm)
  refine ⟨(t.react_start input b).trans h.start, ?_,
    fun hm => (t.react_spares input (hset hm)).silent.trans (h.silent (List.mem_cons_of_mem _ hm)),
    fun hm => (t.react_spares input (hset hm)).following.trans (h.following (List.mem_cons_of_mem _ hm)),
    fun hm => (t.react_spares input (hset hm)).owed.trans (h.owed (List.mem_cons_of_mem _ hm))⟩
  have hl := h.lines
  by_cases hlines : b = .lines
  · subst hlines
    rw [if_pos (List.mem_cons_self ..)] at hl
    rw [if_neg hb]
    obtain ⟨-, -, -, -, -, -, -, -, hd⟩ := t.lineReaction_frame input.levels
    exact (congrArg Drive.lines hd).trans (State.sampledLines_congr h.start hl _)
  · have hiff : .lines ∈ b :: rem ↔ .lines ∈ rem := List.mem_cons.trans (or_iff_right (Ne.symm hlines))
    exact (t.react_lines input hlines).trans (hl.trans (if_congr hiff rfl rfl))

variable (hq : s.quiet input.levels)
include hq

/-- The line sampling of a quiet expiry changes the lines alone. -/
theorem lineReaction (h : s.QuietAt input.levels (.lines :: rem) t) :
    t.lineReaction input.levels = t.sampled input.levels := by
  obtain ⟨hestop, hfault, -⟩ := hq
  have hl : t.drive.lines = s.drive.lines := h.lines.trans (if_pos (List.mem_cons_self ..))
  have hnew := State.sampledLines_congr h.start hl input.levels
  have h1 : ¬((t.sampledLines input.levels).estop.active = true ∧ (!t.drive.lines.estop.active) = true) := by
    rw [hnew, hl]; simpa using hestop
  have h2 : ¬((t.sampledLines input.levels).driveFault.active = true ∧ (!t.drive.lines.driveFault.active) = true) := by
    rw [hnew, hl]; simpa using hfault
  unfold State.lineReaction
  dsimp only
  rw [if_neg h2, if_neg h1]
  rfl

/-- No report is taken at the hand-over of a quiet expiry. -/
theorem setpointOperation (h : s.QuietAt input.levels (.setpoint :: rem) t) :
    t.setpointOperation = (t.operate.handedOver t.axis.nodeState).settleStop := by
  obtain ⟨-, -, hsilent, hfollow, howed, -⟩ := hq
  have hmem : Block.setpoint ∈ Block.setpoint :: rem := List.mem_cons_self ..
  refine State.setpointOperation_quiet ?_ ?_ ?_
  · rw [h.owed hmem]; exact howed
  · exact becameThree_false fun e => by rw [h.silent hmem] at e; omega
  · exact becameThree_false fun e => by rw [h.following hmem] at e; omega

/-- Outside NS_STOPPING the axis state machine alone changes its state at a quiet expiry. -/
theorem axis (h : s.QuietAt input.levels (b :: rem) t) (hb : b ≠ .axis) (hn : t.axis.nodeState ≠ .stopping) :
    (t.react input b).axis = t.axis := by
  cases b with
  | axis => exact absurd rfl hb
  | peers => exact t.peerReaction_only.axis
  | moves => exact t.moveReaction_only.axis
  | surge => rfl
  | lines => exact (congrArg State.axis (h.lineReaction hq) :)
  | store =>
    obtain ⟨-, -, -, -, -, -, -, ha, -⟩ := t.storeReaction_frame input.stepFourDone
    exact ha
  | setpoint =>
    obtain ⟨-, -, -, -, -, ha, -⟩ := t.operate_frame
    have hns : (t.operate.handedOver t.axis.nodeState).axis.nodeState ≠ .stopping := by
      rw [show (t.operate.handedOver t.axis.nodeState).axis = t.axis from ha]; exact hn
    exact (congrArg State.axis ((h.setpointOperation hq).trans (State.settleStop_standing hns))).trans ha

/-- The axis state machine and the setpoint operation alone change the limiter at a quiet expiry. -/
theorem limiter (h : s.QuietAt input.levels (b :: rem) t) (hb : b ≠ .axis) (hs : b ≠ .setpoint) :
    (t.react input b).limiter = t.limiter := by
  cases b with
  | axis => exact absurd rfl hb
  | setpoint => exact absurd rfl hs
  | peers => exact t.peerReaction_only.limiter
  | moves => exact t.moveReaction_only.limiter
  | surge => rfl
  | lines => exact (congrArg State.limiter (h.lineReaction hq) :)
  | store =>
    obtain ⟨-, -, -, -, hl, -⟩ := t.storeReaction_frame input.stepFourDone
    exact hl

end State.QuietAt

section
variable {s : State} {input : ExpiryInput} (hq : s.quiet input.levels)
include hq

/-- The axis state machine at a quiet expiry, from what its own reaction makes of the state the expiry began with,
whether the lines are sampled before it or after. -/
theorem State.expiry_axis {A : Axis} (hs : s.axis.nodeState ≠ .stopping) (hA : A.nodeState ≠ .stopping)
    (turn : ∀ t : State, t.start = s.start → t.axis = s.axis →
      t.drive.lines = s.drive.lines ∨ t.drive.lines = s.sampledLines input.levels → t.axisReaction.axis = A) :
    (s.expiry input).axis = A := by
  have h := State.expiry_turns (s := s) (input := input)
    (I := fun rem t => s.QuietAt input.levels rem t ∧ t.axis = if .axis ∈ rem then s.axis else A)
    (fun b rem t hb ⟨h, ha⟩ => ⟨h.turn hb, ?_⟩) ⟨.begins s input, (if_pos (mem_schedule _ _)).symm⟩
  · exact h.2
  · by_cases hax : b = .axis
    · subst hax
      rw [if_neg hb]
      rw [if_pos (List.mem_cons_self ..)] at ha
      refine turn t h.start ha ?_
      have hl := h.lines
      split at hl
      · exact .inl hl
      · exact .inr hl
    · have hiff : .axis ∈ b :: rem ↔ .axis ∈ rem := List.mem_cons.trans (or_iff_right (Ne.symm hax))
      have ha' := ha.trans (if_congr hiff rfl rfl)
      have hns : t.axis.nodeState ≠ .stopping := by
        rw [ha']; split
        · exact hs
        · exact hA
      exact (h.axis hq hax hns).trans ha'

/-- A state that holds its setpoint at a quiet expiry (R42): NS_STOPPED, or a brake release that does not end. -/
def State.holdsSetpoint (s : State) : Prop :=
  s.axis.nodeState = .stopped ∨ (s.axis.nodeState = .brakeRelease ∧ s.axis.settleCount < 24)

omit hq in
theorem State.axisReaction_holds {t : State} (h : t.holdsSetpoint)
    (hb : t.axis.brakeCount + 1 < t.start.profile.brakeTimeout) :
    ∃ a, t.axisReaction = { t with axis := a } ∧ a.nodeState = t.axis.nodeState ∧ a.driveEnable = t.axis.driveEnable := by
  rcases h with h | ⟨h, hset⟩
  · exact ⟨t.axis, by simp only [State.axisReaction, h], rfl, rfl⟩
  · simp only [State.axisReaction, h, State.releaseStep]
    split
    · rw [if_neg (show ¬Config.brakeSettle ≤ t.axis.settleCount + 1 from Nat.not_le.mpr (Nat.succ_lt_succ hset))]
      exact ⟨_, rfl, rfl, rfl⟩
    · split
      · exact ⟨_, rfl, rfl, rfl⟩
      · rw [State.brakeWait, if_neg (Nat.not_le.mpr hb)]
        exact ⟨_, rfl, h, rfl⟩

omit hq in
theorem State.operate_holds {t : State} (h : t.axis.nodeState = .stopped ∨ t.axis.nodeState = .brakeRelease) :
    t.operate = t.holdOperation := by
  rcases h with h | h <;> simp only [State.operate, h]

/-- The held setpoint, and the exchange that carries it (R42, R151). -/
structure State.HeldOver (s t : State) : Prop where
  limiter : t.limiter = ⟨s.limiter.S, 0, 0⟩
  exchange : ∃ e, t.drive.exchange = some e ∧ e.setpoint = s.limiter.S ∧ e.feedForward = 0 ∧ e.tracking = false ∧
    e.enable = s.axis.driveEnable

/-- What stands through the quiet expiry of such a state while the blocks `rem` have still to react. -/
structure State.HoldsAt (s : State) (levels : Lines Bool) (rem : List Block) (t : State) : Prop where
  quiet : s.QuietAt levels rem t
  nodeState : t.axis.nodeState = s.axis.nodeState
  driveEnable : t.axis.driveEnable = s.axis.driveEnable
  axis : .axis ∈ rem → t.axis = s.axis
  setpoint : t.limiter.S = s.limiter.S
  held : .setpoint ∉ rem → s.HeldOver t

section
variable {rem : List Block} {t : State} (hh : s.holdsSetpoint)
include hh

omit hq in
theorem State.holdsSetpoint.nodeState : s.axis.nodeState = .stopped ∨ s.axis.nodeState = .brakeRelease :=
  hh.imp_right And.left

omit hq in
theorem State.holdsSetpoint.not_stopping : s.axis.nodeState ≠ .stopping := by
  rcases State.holdsSetpoint.nodeState hh with e | e <;> rw [e] <;> nofun

/-- The turn of the setpoint operation: the setpoint held, and handed over. -/
theorem State.HoldsAt.setpointTurn (hb : .setpoint ∉ rem) (h : s.HoldsAt input.levels (.setpoint :: rem) t) :
    s.HoldsAt input.levels rem (t.react input .setpoint) := by
  obtain ⟨hqa, hn, he, hax, hS, -⟩ := h
  have hstate := State.holdsSetpoint.nodeState hh
  have hop := State.operate_holds (t := t) (by rw [hn]; exact hstate)
  have hx : t.react input .setpoint = t.holdOperation.handedOver t.axis.nodeState := by
    rw [← hop]
    refine (hqa.setpointOperation hq).trans (State.settleStop_standing ?_)
    rw [hop]
    exact fun e => State.holdsSetpoint.not_stopping hh (hn.symm.trans e)
  have htr : t.axis.nodeState.tracks = false := by rw [hn]; rcases hstate with e | e <;> rw [e] <;> rfl
  have hl : t.holdOperation.limiter = ⟨s.limiter.S, 0, 0⟩ := by rw [← hS]; rfl
  refine ⟨hqa.turn hb, ?_, ?_, ?_, ?_, fun _ => ?_⟩ <;> rw [hx]
  · exact hn
  · exact he
  · exact fun hm => hax (List.mem_cons_of_mem _ hm)
  · exact hS
  · exact ⟨hl, _, rfl, hS, rfl, htr, he⟩

/-- The turn of any other block: the limiter and the exchange as they stand. -/
theorem State.HoldsAt.otherTurn {b : Block} (hset : b ≠ .setpoint) (hb : b ∉ rem)
    (h : s.HoldsAt input.levels (b :: rem) t) : s.HoldsAt input.levels rem (t.react input b) := by
  obtain ⟨hqa, hn, he, hax, hS, hheld⟩ := h
  have hkeep : (t.react input b).limiter = t.limiter ∧ (t.react input b).axis.nodeState = t.axis.nodeState ∧
      (t.react input b).axis.driveEnable = t.axis.driveEnable ∧ (.axis ∈ rem → (t.react input b).axis = t.axis) := by
    by_cases hba : b = .axis
    · subst hba
      have ha := hax (List.mem_cons_self ..)
      obtain ⟨a, hx, h1, h2⟩ := State.axisReaction_holds (t := t) (by rw [State.holdsSetpoint, ha]; exact hh)
        (by rw [ha, hqa.start]; exact State.quiet_brake hq)
      rw [State.react, hx]
      exact ⟨rfl, h1, h2, fun hm => absurd hm hb⟩
    · have ha := hqa.axis hq hba fun e => State.holdsSetpoint.not_stopping hh (hn.symm.trans e)
      exact ⟨hqa.limiter hq hba hset, congrArg Axis.nodeState ha, congrArg Axis.driveEnable ha, fun _ => ha⟩
  obtain ⟨hl, h1, h2, h3⟩ := hkeep
  refine ⟨hqa.turn hb, h1.trans hn, h2.trans he, fun hm => (h3 hm).trans (hax (List.mem_cons_of_mem _ hm)),
    by rw [hl]; exact hS, fun hc => ?_⟩
  obtain ⟨hlim, e, hex, hrest⟩ :=
    hheld fun hm => (List.mem_cons.mp hm).elim (fun e => hset e.symm) hc
  exact ⟨hl.trans hlim, e, (t.react_spares input hset).exchange.trans hex, hrest⟩

theorem State.expiry_holds : s.HeldOver (s.expiry input) := by
  have h := State.expiry_turns (s := s) (input := input) (I := s.HoldsAt input.levels)
    (fun b rem t hb h => ?_)
    ⟨.begins s input, rfl, rfl, fun _ => rfl, rfl, fun hc => absurd (mem_schedule _ _) hc⟩
  · exact h.held nofun
  · by_cases hset : b = .setpoint
    · subst hset
      exact h.setpointTurn hq hh hb
    · exact h.otherTurn hq hh hset hb

end

end

end Sys2Proof.Machine
end

section
/-! The move engine at a quiet expiry: a lone context in a phase that no peer concerns is changed by the engine's own
reaction alone, and that reaction reads nothing but the contexts and the station. -/

namespace Sys2Proof

/-- A phase that neither a stale notice nor the levelling concerns (R83, R104, R105). -/
def Phase.calm (p : Phase) : Prop := p ≠ .posted ∧ p ≠ .running ∧ p ≠ .resuming

namespace Machine

/-- No PENDING context, and a calm ACTIVE one if any. -/
def Moves.Calm (m : Moves) : Prop := m.pending = none ∧ ∀ a ∈ m.active, a.phase.calm

theorem Moves.Calm.of_active {m : Moves} {d : Context} (h : m.active = some d) (hp : m.pending = none)
    (hd : d.phase.calm) : m.Calm :=
  ⟨hp, fun a ha => by obtain rfl := Option.some.inj (h.symm.trans ha); exact hd⟩

theorem Moves.Calm.of_none {m : Moves} (h : m.active = none) (hp : m.pending = none) : m.Calm :=
  ⟨hp, fun _ ha => absurd (h.symm.trans ha) nofun⟩

/-! ## The other blocks -/

theorem State.axisReaction_moves (s : State) : s.axisReaction.moves = s.moves := by
  have hfault (h : s.axis.nodeState ≠ .active) (c : FaultCause) : (s.faulting c).moves = s.moves := by
    unfold State.faulting
    dsimp only
    split
    · rfl
    · rfl
    · rfl
    all_goals exact State.enter_moves_standing (by exact h) _
  have hwait (h : s.axis.nodeState ≠ .active) : s.brakeWait.moves = s.moves := by
    unfold State.brakeWait
    split
    · exact hfault h _
    · rfl
  unfold State.axisReaction
  split
  case h_1 hn =>
    have h : s.axis.nodeState ≠ .active := by rw [hn]; nofun
    unfold State.releaseStep
    split
    · split
      · exact State.enter_moves_standing h _
      · rfl
    · split
      · rfl
      · exact hwait h
  case h_2 hn =>
    have h : s.axis.nodeState ≠ .active := by rw [hn]; nofun
    unfold State.engageStep
    split
    · exact hwait h
    · exact State.enter_moves_standing h _
  case h_3 hn =>
    split
    · exact State.enter_moves_standing (by rw [hn]; nofun) _
    · rfl
  all_goals rfl

theorem State.settleStop_moves (s : State) : s.settleStop.moves = s.moves := by
  unfold State.settleStop
  split
  · next h => exact State.enter_moves_standing (by rw [h.1]; nofun) _
  · rfl

theorem State.QuietAt.moves {s t : State} {input : ExpiryInput} {b : Block} {rem : List Block}
    (hq : s.quiet input.levels) (h : s.QuietAt input.levels (b :: rem) t) (hb : b ≠ .moves) (hc : t.moves.Calm) :
    (t.react input b).moves = t.moves := by
  cases b with
  | moves => exact absurd rfl hb
  | peers =>
    refine State.peerReaction_keeps (P := fun u => u.moves = t.moves) (fun _ _ h => h) (fun {u} n hu => ?_)
      (fun h => h) rfl
    rw [State.staleNotice_unconcerned]
    · exact hu
    · intro a ha _
      rw [hu] at ha
      exact ⟨(hc.2 a ha).2.1, (hc.2 a ha).2.2, (hc.2 a ha).1⟩
    · intro p hp
      rw [hu, hc.1] at hp
      exact absurd hp nofun
  | surge => rfl
  | axis => exact t.axisReaction_moves
  | lines => exact (congrArg State.moves (h.lineReaction hq) :)
  | store =>
    obtain ⟨-, -, -, -, -, -, hm, -⟩ := t.storeReaction_frame input.stepFourDone
    exact hm
  | setpoint =>
    obtain ⟨-, -, -, hm, -⟩ := t.operate_frame
    exact ((congrArg State.moves (h.setpointOperation hq)).trans (State.settleStop_moves _)).trans hm

/-- The contexts at a quiet expiry, from what the move engine's own reaction makes of them. -/
theorem State.expiry_moves {s : State} {input : ExpiryInput} {m : Moves} (hq : s.quiet input.levels)
    (hs : s.moves.Calm) (hm : m.Calm)
    (turn : ∀ t : State, t.moves = s.moves → t.start = s.start → t.moveReaction.moves = m) :
    (s.expiry input).moves = m := by
  have h := State.expiry_turns (s := s) (input := input)
    (I := fun rem t => s.QuietAt input.levels rem t ∧ t.moves = if .moves ∈ rem then s.moves else m)
    (fun b rem t hb ⟨h, ht⟩ => ⟨h.turn hb, ?_⟩) ⟨.begins s input, (if_pos (mem_schedule _ _)).symm⟩
  · exact h.2
  by_cases hmv : b = .moves
  · subst hmv
    rw [if_neg hb]
    rw [if_pos (List.mem_cons_self ..)] at ht
    exact turn t ht h.start
  · have hiff : .moves ∈ b :: rem ↔ .moves ∈ rem := List.mem_cons.trans (or_iff_right (Ne.symm hmv))
    have ht' := ht.trans (if_congr hiff rfl rfl)
    have hcalm : t.moves.Calm := by
      rw [ht']; split
      · exact hs
      · exact hm
    exact (h.moves hq hmv hcalm).trans ht'

/-! ## The engine's own reaction -/

namespace Context
variable {c : Context}

theorem gapPart_phase (h : c.phase.calm) : c.gapPart.phase = c.phase := by
  obtain ⟨-, h1, h2⟩ := h
  unfold Context.gapPart
  split
  · rfl
  · split
    · exact if_neg fun e => e.elim h1 h2
    · rfl

theorem ratePart_calm (h : c.phase.calm) : c.ratePart.phase.calm := by
  by_cases hh : c.phase = .holding
  · rw [Context.ratePart_holding hh]
    dsimp only
    split <;> exact ⟨nofun, nofun, nofun⟩
  · have he : c.ratePart = c := by
      obtain ⟨-, -, hr⟩ := h
      cases hph : c.phase <;> simp_all [Context.ratePart]
    rw [he]; exact h

theorem moved_calm (h : c.phase.calm) (b : Bool) : (c.moved b).phase.calm := by
  obtain e | e := c.moved_phase b <;> rw [e]
  · exact ⟨nofun, nofun, nofun⟩
  · exact h

theorem dwellPart_calm (h : c.phase.calm) : c.dwellPart.phase.calm := by
  unfold Context.dwellPart
  dsimp only
  split
  · exact ⟨nofun, nofun, nofun⟩
  · exact h

theorem stepped_calm (h : c.phase.calm) : ∀ a ∈ c.stepped, a.phase.calm := by
  have hg : (if Phase.advances c.phase = true then c.moved false else c).phase.calm := by
    split
    · exact moved_calm h false
    · exact h
  intro a ha
  rw [Context.stepped, Option.mem_def, Option.ite_none_left_eq_some, Option.some.injEq] at ha
  obtain ⟨-, rfl⟩ := ha
  rw [Context.weightPart_phase]
  split
  · exact dwellPart_calm hg
  · exact hg

end Context

theorem State.countPlace_gathering {s : State} {p : Place} {c : Context} (h : s.moves.at p = some c)
    (hph : c.phase = .gather) (hcd : 1 < c.gatherCd) :
    s.countPlace p = s.putContext p (some { c with gatherCd := c.gatherCd - 1 }) := by
  simp only [State.countPlace, h, hph, if_neg (Nat.not_le.mpr hcd)]

theorem State.countPlace_waiting {s : State} {p : Place} {c : Context} (h : s.moves.at p = some c)
    (hph : c.phase = .armed) (hcd : 1 < c.armedCd) :
    s.countPlace p = s.putContext p (some { c with armedCd := c.armedCd - 1 }) := by
  simp only [State.countPlace, h, hph, if_neg (Nat.not_le.mpr hcd)]

section
variable {s : State} {c : Context} (ha : s.moves.active = some c) (hp : s.moves.pending = none)
include ha hp

/-- A gather that goes on (R78). -/
theorem State.moveReaction_gathering (hph : c.phase = .gather) (hcd : 1 < c.gatherCd) :
    s.moveReaction.moves = { s.moves with
      active := some { c with gatherCd := c.gatherCd - 1 }, handOver := ⟨0, c.preset.sTrim, 0⟩ } := by
  have hf : c.phase.fired = false := by rw [hph]; rfl
  have hc := State.countPlace_gathering (p := .active) ha hph hcd
  rw [State.moveReaction_unfired (State.countdowns_alone hc hp) hf, State.putContext_active,
    State.withActive_giveHandOver_unfired (by exact hf)]

/-- An armed context that waits on (R81). -/
theorem State.moveReaction_waiting (hph : c.phase = .armed) (hcd : 1 < c.armedCd) :
    s.moveReaction.moves = { s.moves with
      active := some { c with armedCd := c.armedCd - 1 }, handOver := ⟨0, c.preset.sTrim, 0⟩ } := by
  have hf : c.phase.fired = false := by rw [hph]; rfl
  have hc := State.countPlace_waiting (p := .active) ha hph hcd
  rw [State.moveReaction_unfired (State.countdowns_alone hc hp) hf, State.putContext_active,
    State.withActive_giveHandOver_unfired (by exact hf)]

/-- A gather that ends without the node (R78), told to the others or not. -/
theorem State.moveReaction_late_moves (hph : c.phase = .gather) (hcd : c.gatherCd ≤ 1)
    (hm : c.parts.has s.start.station = false) :
    s.moveReaction.moves = { s.moves with
      active := none, lastAbandon := some .joinLate, handOver := ⟨0, 0, 0⟩ } := by
  have hc := (State.countPlace_gather (p := .active) ha hph hcd).trans (State.gatherExpiry_late hm _)
  have habandon := State.abandonActive_unfired ha hp (by rw [hph]; rfl) .joinLate
  have hcount (u : State) (hu : s.countPlace .active = u)
      (hmoves : u.moves = { s.moves with active := none, lastAbandon := some .joinLate }) :
      s.moveReaction.moves = { s.moves with
        active := none, lastAbandon := some .joinLate, handOver := ⟨0, 0, 0⟩ } := by
    rw [State.moveReaction_unfired (State.countdowns_alone hu (by rw [hmoves]; exact hp)) (by rw [hmoves]; rfl),
      State.giveHandOver_moves, hmoves]
    rfl
  refine hcount _ hc ?_
  split
  · exact congrArg State.moves habandon
  · exact congrArg State.moves habandon

end

/-- A fired calm context (R92). -/
theorem State.moveReaction_fired_calm {s : State} {c : Context} (ha : s.moves.active = some c)
    (hp : s.moves.pending = none) (hf : c.phase.fired = true) (hc : c.phase.calm) :
    s.moveReaction.moves =
      (let f : Context := { c.gapPart.ratePart with lam := 256 }
       { s.moves with
         active := f.stepped
         handOver := handOverOf f.stepped (if Phase.advances f.phase then f.stepContribution false else 0) }) := by
  have hne : c.gapPart.ratePart.phase ≠ .running :=
    (Context.ratePart_calm (by rw [Context.gapPart_phase hc]; exact hc)).2.1
  rw [State.moveReaction_fired ha hp hf rfl (State.drifted_of_not_running hne _)
    (congrArg (fun x => { c.gapPart.ratePart with lam := x }) (State.levelFactor_of_not_running hne _))]

/-- A lone calm context: the engine's reaction is the same in every state with the same contexts and station. -/
theorem State.moveReaction_calm {s : State} {c : Context} (ha : s.moves.active = some c) (hp : s.moves.pending = none)
    (hc : c.phase.calm) :
    s.moveReaction.moves.Calm ∧
    ∀ t : State, t.moves = s.moves → t.start = s.start → t.moveReaction.moves = s.moveReaction.moves := by
  -- a closed form of the contexts after the reaction settles both parts
  have settle (m : Moves) (hm : m.Calm)
      (h : ∀ t : State, t.moves = s.moves → t.start = s.start → t.moveReaction.moves = m) :
      s.moveReaction.moves.Calm ∧
      ∀ t : State, t.moves = s.moves → t.start = s.start → t.moveReaction.moves = s.moveReaction.moves := by
    have hs := h s rfl rfl
    rw [hs]
    exact ⟨hm, h⟩
  cases hfired : c.phase.fired with
  | true =>
    refine settle _ ?_ fun t hm _ => (State.moveReaction_fired_calm (s := t) (by rw [hm]; exact ha) (by rw [hm]; exact hp)
      hfired hc).trans (by rw [hm])
    exact ⟨hp, Context.stepped_calm (by exact Context.ratePart_calm (by rw [Context.gapPart_phase hc]; exact hc))⟩
  | false =>
    have of {t : State} (hm : t.moves = s.moves) : t.moves.active = some c ∧ t.moves.pending = none := by
      rw [hm]; exact ⟨ha, hp⟩
    cases hph : c.phase with
    | posted => exact absurd hph hc.1
    | running | holding | suspended | resuming | finished | releasing => rw [hph] at hfired; exact absurd hfired nofun
    | gather =>
      by_cases hcd : c.gatherCd ≤ 1
      · cases hmem : c.parts.has s.start.station with
        | true =>
          refine settle { s.moves with
            active := some { c with phase := .armed, gatherCd := 0, armedCd := 30000 }
            handOver := ⟨0, c.preset.sTrim, 0⟩ } (.of_active rfl hp ⟨nofun, nofun, nofun⟩) fun t hm hs => ?_
          obtain ⟨ha', hp'⟩ := of hm
          rw [State.moveReaction_gathered ha' hp' hph hcd (by rw [hs]; exact hmem), hm]
        | false =>
          refine settle { s.moves with active := none, lastAbandon := some .joinLate, handOver := ⟨0, 0, 0⟩ }
            (.of_none rfl hp) fun t hm hs => ?_
          obtain ⟨ha', hp'⟩ := of hm
          rw [State.moveReaction_late_moves ha' hp' hph hcd (by rw [hs]; exact hmem), hm]
      · refine settle { s.moves with
          active := some { c with gatherCd := c.gatherCd - 1 }, handOver := ⟨0, c.preset.sTrim, 0⟩ }
          (.of_active rfl hp hc) fun t hm _ => ?_
        obtain ⟨ha', hp'⟩ := of hm
        rw [State.moveReaction_gathering ha' hp' hph (Nat.lt_of_not_le hcd), hm]
    | armed =>
      by_cases hcd : c.armedCd ≤ 1
      · refine settle { s.moves with active := none, lastAbandon := some .armExpired, handOver := ⟨0, 0, 0⟩ }
          (.of_none rfl hp) fun t hm _ => ?_
        obtain ⟨ha', hp'⟩ := of hm
        rw [State.moveReaction_abandoned ha' hp' hfired (State.countPlace_armed (p := .active) ha' hph hcd), hm]
      · refine settle { s.moves with
          active := some { c with armedCd := c.armedCd - 1 }, handOver := ⟨0, c.preset.sTrim, 0⟩ }
          (.of_active rfl hp hc) fun t hm _ => ?_
        obtain ⟨ha', hp'⟩ := of hm
        rw [State.moveReaction_waiting ha' hp' hph (Nat.lt_of_not_le hcd), hm]

end Machine

end Sys2Proof
end

section
/-! The period expiry as a whole: what each clause of its statement says, from the one reaction of the block it is about. -/

namespace Sys2Proof.Machine

/-! ## The axis state machine's own reaction (R137, R138, R140) -/

section
variable {s : State}

theorem State.axisReaction_unparks (h : s.axis.nodeState = .holdPark) (hu : s.axis.unparkPending = true) :
    s.axisReaction.axis = s.axis.entered .active := by
  simp only [State.axisReaction, h, hu, if_true, State.enter_axis]

theorem State.axisReaction_confirms (h : s.axis.nodeState = .brakeRelease) (hc : s.axis.releaseConfirmed = false)
    (hf : s.drive.lines.brakeFb.active = true) : s.axisReaction.axis = { s.axis with releaseConfirmed := true } := by
  simp only [State.axisReaction, h, State.releaseStep, hc, Bool.false_eq_true, if_false, hf, if_true]

theorem State.axisReaction_counts (h : s.axis.nodeState = .brakeRelease) (hc : s.axis.releaseConfirmed = false)
    (hf : s.drive.lines.brakeFb.active = false) (hb : s.axis.brakeCount + 1 < s.start.profile.brakeTimeout) :
    s.axisReaction.axis = { s.axis with brakeCount := s.axis.brakeCount + 1 } := by
  simp only [State.axisReaction, h, State.releaseStep, hc, Bool.false_eq_true, if_false, hf, State.brakeWait,
    if_neg (Nat.not_le.mpr hb)]

theorem State.axisReaction_settles (h : s.axis.nodeState = .brakeRelease) (hc : s.axis.releaseConfirmed = true)
    (hset : s.axis.settleCount < 24) :
    s.axisReaction.axis = { s.axis with settleCount := s.axis.settleCount + 1 } := by
  have hlt : ¬Config.brakeSettle ≤ s.axis.settleCount + 1 := Nat.not_le.mpr (Nat.succ_lt_succ hset)
  simp only [State.axisReaction, h, State.releaseStep, hc, if_true, if_neg hlt]

theorem State.axisReaction_engages (h : s.axis.nodeState = .brakeEngage) (hf : s.drive.lines.brakeFb.active = false) :
    s.axisReaction.axis = s.axis.entered .braked := by
  simp only [State.axisReaction, h, State.engageStep, hf, Bool.false_eq_true, if_false, State.enter_axis]

end

/-! ## The clauses -/

/-- An event that changes the state has come about. -/
theorem whenAble_changed {able : Bool} {s t u : State} (h : whenAble able s t = .next u) (hne : u ≠ s) : u = t := by
  cases able with
  | true => exact (Host.Outcome.next.inj h).symm
  | false => exact absurd (Host.Outcome.next.inj h).symm hne

theorem exec_moveEvent {i : Instr} (hi : i ∈ [Instr.gatherExpiry, .armExpiry, .holdRampEnd, .dwellEnd, .fadeOutEnd])
    (s : State) : ∃ able, exec i s = whenAble able s s.moveReaction := by
  simp only [List.mem_cons, List.not_mem_nil, or_false] at hi
  rcases hi with rfl | rfl | rfl | rfl | rfl <;> exact ⟨_, rfl⟩

section
variable {s : State} {input : ExpiryInput}

theorem trackedSetpoint_eq (p : Int) : trackedSetpoint p = max (-1024000000) (min 1024000000 (256 * p)) :=
  (clamp_eq (by decide) _).trans (by rw [mul_comm]; rfl)

theorem State.expiry_estop (hacc : s.start.accepted = true) (hmask : s.start.profile.mask.estop = false) :
    (s.expiry input).drive.lines.estop = s.drive.lines.estop.take (input.levels.estop == s.start.profile.polarity.estop) := by
  simp only [State.expiry_lines, State.sampledLines, hacc, if_true, hmask, lineStep, Bool.not_false]

theorem State.expiry_limitPos (hacc : s.start.accepted = true) (hmask : s.start.profile.mask.limitPos = true) :
    (s.expiry input).drive.lines.limitPos = s.drive.lines.limitPos := by
  simp only [State.expiry_lines, State.sampledLines, hacc, if_true, hmask, lineStep, Bool.not_true, Bool.false_eq_true,
    if_false]

theorem State.expiry_brakeFb (hacc : s.start.accepted = false) :
    (s.expiry input).drive.lines.brakeFb = s.drive.lines.brakeFb := by
  simp only [State.expiry_lines, State.sampledLines, hacc, Bool.false_eq_true, if_false]

theorem State.expiry_window_eq : (s.expiry input).surge.window =
    (s.surge.window.filter (fun c => decide (2 ≤ c.life))).map (fun c => ⟨c.src, c.life - 1⟩) :=
  State.expiry_window.trans (agedWindow_eq _)

/-- The setpoint of a state that tracks, in the limiter and in the exchange. -/
theorem State.HandedOver.tracks {e : Exchange} {r : StateReport} (h : s.HandedOver (s.expiry input) e r)
    (ht : s.axis.nodeState.tracks = true) :
    (s.expiry input).limiter = ⟨(s.drive.actual.map trackedSetpoint).getD s.limiter.S, 0, 0⟩ ∧
    e.setpoint = (s.expiry input).limiter.S ∧ e.feedForward = 0 ∧ e.tracking = true := by
  obtain ⟨hl, e', he, hset, hff, htr⟩ := State.expiry_tracks (input := input) ht
  obtain rfl : e' = e := Option.some.inj (he.symm.trans h.exchange)
  exact ⟨hl, by rw [hl]; exact hset, hff, htr⟩

theorem State.HandedOver.holds {e : Exchange} {r : StateReport} (h : s.HandedOver (s.expiry input) e r)
    (hq : s.quiet input.levels) (hh : s.holdsSetpoint) :
    (s.expiry input).limiter = ⟨s.limiter.S, 0, 0⟩ ∧ e.setpoint = s.limiter.S ∧ e.feedForward = 0 ∧
    e.tracking = false ∧ e.enable = s.axis.driveEnable := by
  obtain ⟨hl, e', he, hrest⟩ := State.expiry_holds hq hh
  obtain rfl : e' = e := Option.some.inj (he.symm.trans h.exchange)
  exact ⟨hl, hrest⟩

/-- A line found in one status before the sampling and after it is in that status at the axis state machine's turn. -/
theorem brakeFb_either {t : State} {x : Bool} (h1 : s.drive.lines.brakeFb.active = x)
    (h2 : (s.sampledLines input.levels).brakeFb.active = x)
    (h : t.drive.lines = s.drive.lines ∨ t.drive.lines = s.sampledLines input.levels) :
    t.drive.lines.brakeFb.active = x := by
  rcases h with h | h <;> rw [h]
  · exact h1
  · exact h2

end

/-- The clauses of a quiet expiry on the contexts and the axis state machine (R78, R137, R138, R140). -/
theorem State.expiry_quiet_moves {s : State} {input : ExpiryInput} (hq : s.quiet input.levels) {c : Context}
    (ha : s.moves.active = some c) (hp : s.moves.pending = none) (hc : c.phase.calm) :
    (s.expiry input).moves = s.moveReaction.moves := by
  obtain ⟨hcalm, heq⟩ := State.moveReaction_calm ha hp hc
  exact State.expiry_moves hq (.of_active ha hp hc) hcalm heq

/-- Settles O11: each clause is about one block, which reacts once and whose part the others spare. -/
theorem periodExpiryReactsOncePerBlock : Obligations.PeriodExpiryReactsOncePerBlock := by
  refine ⟨fun s input ht => ?_, State.setpointOperation_handOver⟩
  obtain ⟨e, r, h⟩ := State.expiry_handedOver (s := s) (input := input)
  obtain ⟨hages, hstick⟩ := State.expiry_ages (s := s) (input := input)
  refine ⟨s.expiry input, e, r, whenAble_of ht _ _, h.exchange, h.stateLane, h.number, h.outcome, h.tracking, h.setpoint,
    h.velocity, h.ownPos, h.role, h.owed, h.idle, fun n => ?_, ?_, State.expiry_window_eq, State.expiry_lines,
    fun hacc hmask => State.expiry_estop hacc hmask, State.expiry_limitPos, State.expiry_brakeFb,
    fun op p hop hlt => ?_, fun op hop hlt => ?_, fun htr => ?_,
    fun hq => ⟨h.holds hq, fun c ha hp hph hcd => ?_, fun c u i hi ha hp hph hex hne => ?_, fun hn hu => ?_,
      fun hn hc hf1 hf2 => ?_, fun hn hc hf1 hf2 => ?_, fun hn hc hset => ?_, fun hn hf1 hf2 => ?_⟩⟩
  · rw [hages n, Option.map_map]; rfl
  · rw [hstick, Option.map_map]; rfl
  · rw [State.expiry_op (by rw [hop]; rfl) hlt, hop]; rfl
  · rw [State.expiry_op (by rw [hop]; rfl) hlt, hop]; rfl
  · obtain ⟨hl, hrest⟩ := h.tracks htr
    refine ⟨hl.trans ?_, hrest⟩
    cases s.drive.actual with
    | none => rfl
    | some p => exact congrArg (Limiter.mk · 0 0) (trackedSetpoint_eq p)
  · have hcalm : c.phase.calm := by rw [hph]; exact ⟨nofun, nofun, nofun⟩
    exact (State.expiry_quiet_moves hq ha hp hcalm).trans (State.moveReaction_gathering ha hp hph hcd)
  · obtain ⟨able, hx⟩ := exec_moveEvent hi s
    have hcalm : c.phase.calm := by
      simp only [List.mem_cons, List.not_mem_nil, or_false, not_or] at hph
      exact hph
    rw [whenAble_changed (hx.symm.trans hex) hne]
    exact State.expiry_quiet_moves hq ha hp hcalm
  · have hA := State.expiry_axis hq (A := s.axis.entered .active) (by rw [hn]; nofun) nofun fun t _ hta _ => by
      rw [State.axisReaction_unparks (by rw [hta]; exact hn) (by rw [hta]; exact hu), hta]
    rw [hA]
    exact ⟨rfl, rfl, rfl, rfl⟩
  · refine State.expiry_axis hq (by rw [hn]; nofun) (by rw [hn]; nofun) fun t _ hta hl => ?_
    rw [State.axisReaction_confirms (by rw [hta]; exact hn) (by rw [hta]; exact hc) (brakeFb_either hf1 hf2 hl), hta]
  · refine State.expiry_axis hq (by rw [hn]; nofun) (by rw [hn]; nofun) fun t hts hta hl => ?_
    rw [State.axisReaction_counts (by rw [hta]; exact hn) (by rw [hta]; exact hc) (brakeFb_either hf1 hf2 hl)
      (by rw [hta, hts]; exact State.quiet_brake hq), hta]
  · refine State.expiry_axis hq (by rw [hn]; nofun) (by rw [hn]; nofun) fun t _ hta _ => ?_
    rw [State.axisReaction_settles (by rw [hta]; exact hn) (by rw [hta]; exact hc) (by rw [hta]; exact hset), hta]
  · have hA := State.expiry_axis hq (A := s.axis.entered .braked) (by rw [hn]; nofun) nofun fun t _ hta hl => by
      rw [State.axisReaction_engages (by rw [hta]; exact hn) (brakeFb_either hf1 hf2 hl), hta]
    rw [hA]
    exact ⟨rfl, rfl, rfl, rfl⟩

end Sys2Proof.Machine
end
